-- ==== Sys2Proof/Word.lean ====
section
/-! DEFINITION. The widths the spec uses (00_scope.md R9, R11): every value is an unsigned number of a stated width. -/

namespace Sys2Proof

/-- A byte: a V register, a timer, a memory cell, an immediate kk. -/
abbrev Byte := BitVec 8

/-- A 16-bit word: PC, I, a stack entry, a key mask, an instruction word. -/
abbrev Word := BitVec 16

/-- A 4-bit field: a register index x or y, a count or sub-opcode n, the major opcode. -/
abbrev Nibble := BitVec 4

/-- A 12-bit address field nnn. -/
abbrev Addr := BitVec 12

end Sys2Proof
end

