-- ==== Sys2Proof/Config.lean ====
section
/-! DEFINITION. The fixed sizes (00_scope.md R9), the parameters the source leaves open (R10) with the spec's defaults,
and the one free value, the random byte (10_state.md R39). -/

namespace Sys2Proof

/-- What a group-0 word other than 00E0 and 00EE does (30_encoding.md R92). -/
inductive SysPolicy where
  | fault
  | nop
deriving DecidableEq, Repr

/-- What a data address above 0xFFF does (20_memory.md R53). -/
inductive MemOobPolicy where
  | fault
  | wrap
deriving DecidableEq, Repr

/-- What a key index above 15 does (40_control_flow.md R121). -/
inductive KeyIndexPolicy where
  | fault
  | mod16
deriving DecidableEq, Repr

/-- What a TICK does while a key wait is pending (44_timers_keypad.md R264, R265). -/
inductive KeyWaitPolicy where
  | advance
  | hold
deriving DecidableEq, Repr

/-- Which write comes last in a flag-writing operation (41_alu.md R150). -/
inductive VfOrder where
  | flagLast
  | resultLast
deriving DecidableEq, Repr

/-- Which error is latched once a LOAD that does not fit has failed on a block already faulted. DESIGN CHOICE (log 17): the spec
says both. 70_reset_and_hazards.md R353, R354 set fault to MemoryOverflow without a condition; 60_exceptions.md R313 lets no
second error be raised while faulted. -/
inductive FailedLoad where
  | replacesError
  | keepsError
deriving DecidableEq, Repr

/-- The named arguments of the model (00_scope.md R10), and failedLoad, the model's own (log 17). They are fixed for a machine: no operation changes them.
DESIGN CHOICE (log 1): they are plain data carried by State, so a statement about every state covers every setting. -/
structure Config where
  sysPolicy : SysPolicy
  memOob : MemOobPolicy
  keyIndex : KeyIndexPolicy
  keyWait : KeyWaitPolicy
  vfOrder : VfOrder
  clsSetsDisplayChanged : Bool
  failedLoad : FailedLoad
  font : Vector Byte 80
deriving DecidableEq, Repr

/-- MEMORY_SIZE (R9). -/
abbrev Config.memorySize : Nat := 4096

/-- PROGRAM_START, also the reset vector (R9, 70_reset_and_hazards.md R351). -/
abbrev Config.programStart : Nat := 0x200

/-- INSTRUCTION_SIZE (R9). -/
abbrev Config.instructionSize : Nat := 2

/-- GLYPH_SIZE (R9). -/
abbrev Config.glyphSize : Nat := 5

/-- STACK_DEPTH (R9). -/
abbrev Config.stackDepth : Nat := 16

/-- DISPLAY_W (R9). -/
abbrev Config.displayW : Nat := 64

/-- DISPLAY_H (R9). -/
abbrev Config.displayH : Nat := 32

/-- NUM_KEYS (R9). -/
abbrev Config.numKeys : Nat := 16

/-- Glyphs 0 to 3 of the standard font (10_state.md R27). PRESUMED by the spec: general knowledge (log 14). -/
def Config.fontRows03 : List Byte :=
  [0xF0, 0x90, 0x90, 0x90, 0xF0,  0x20, 0x60, 0x20, 0x20, 0x70,
   0xF0, 0x10, 0xF0, 0x80, 0xF0,  0xF0, 0x10, 0xF0, 0x10, 0xF0]

/-- Glyphs 4 to 7. -/
def Config.fontRows47 : List Byte :=
  [0x90, 0x90, 0xF0, 0x10, 0x10,  0xF0, 0x80, 0xF0, 0x10, 0xF0,
   0xF0, 0x80, 0xF0, 0x90, 0xF0,  0xF0, 0x10, 0x20, 0x40, 0x40]

/-- Glyphs 8 to B. -/
def Config.fontRows8B : List Byte :=
  [0xF0, 0x90, 0xF0, 0x90, 0xF0,  0xF0, 0x90, 0xF0, 0x10, 0xF0,
   0xF0, 0x90, 0xF0, 0x90, 0x90,  0xE0, 0x90, 0xE0, 0x90, 0xE0]

/-- Glyphs C to F. -/
def Config.fontRowsCF : List Byte :=
  [0xF0, 0x80, 0x80, 0x80, 0xF0,  0xE0, 0x90, 0x90, 0x90, 0xE0,
   0xF0, 0x80, 0xF0, 0x80, 0xF0,  0xF0, 0x80, 0xF0, 0x80, 0x80]

/-- The default of FONT: glyph d takes bytes 5*d .. 5*d+4 (10_state.md R26, R27). -/
def Config.standardFont : Vector Byte 80 :=
  ⟨(Config.fontRows03 ++ Config.fontRows47 ++ Config.fontRows8B ++ Config.fontRowsCF).toArray, by decide⟩

/-- Every parameter at the spec's default (00_scope.md R10), failedLoad at what the rules of LOAD itself say (log 17). -/
def Config.defaults : Config where
  sysPolicy := .fault
  memOob := .fault
  keyIndex := .fault
  keyWait := .advance
  vfOrder := .flagLast
  clsSetsDisplayChanged := true
  failedLoad := .replacesError
  font := Config.standardFont

/-- FREE VALUE (log 5): the byte of draw number k of a random source whose algorithm the spec does not give
(10_state.md R39, 41_alu.md R162). It has no body, so nothing can be proved of any one value. -/
opaque Config.freeRand : Nat → Byte

end Sys2Proof
end

