-- ==== Sys2Proof/Syntax.lean ====
section
/-! DEFINITION. The 35 instructions of the opcode map (30_encoding.md R90), one constructor per row of
spec/opcode_table.json, and their operand formats (R86). -/

namespace Sys2Proof

/-- One constructor per row of the opcode table, in the table's order. Fields are the operand fields of R85. -/
inductive Instr where
  /-- 0nnn, SYS nnn (40_control_flow.md R111). -/
  | sys (nnn : Addr)
  /-- 00E0, CLS (43_display.md R232). -/
  | cls
  /-- 00EE, RET (40_control_flow.md R110). -/
  | ret
  /-- 1nnn, JP nnn (R112). -/
  | jp (nnn : Addr)
  /-- 2nnn, CALL nnn (R113). -/
  | call (nnn : Addr)
  /-- 3xkk, SE Vx, kk (R115). -/
  | seImm (x : Nibble) (kk : Byte)
  /-- 4xkk, SNE Vx, kk (R116). -/
  | sneImm (x : Nibble) (kk : Byte)
  /-- 5xy0, SE Vx, Vy (R117). -/
  | seReg (x y : Nibble)
  /-- 6xkk, LD Vx, kk (41_alu.md R151). -/
  | ldImm (x : Nibble) (kk : Byte)
  /-- 7xkk, ADD Vx, kk (R152). -/
  | addImm (x : Nibble) (kk : Byte)
  /-- 8xy0, LD Vx, Vy (R153). -/
  | ldReg (x y : Nibble)
  /-- 8xy1, OR Vx, Vy (R154). -/
  | orReg (x y : Nibble)
  /-- 8xy2, AND Vx, Vy (R155). -/
  | andReg (x y : Nibble)
  /-- 8xy3, XOR Vx, Vy (R156). -/
  | xorReg (x y : Nibble)
  /-- 8xy4, ADD Vx, Vy (R157). -/
  | addReg (x y : Nibble)
  /-- 8xy5, SUB Vx, Vy (R158). -/
  | subReg (x y : Nibble)
  /-- 8xy6, SHR Vx, Vy (R159). -/
  | shr (x y : Nibble)
  /-- 8xy7, SUBN Vx, Vy (R160). -/
  | subnReg (x y : Nibble)
  /-- 8xyE, SHL Vx, Vy (R161). -/
  | shl (x y : Nibble)
  /-- 9xy0, SNE Vx, Vy (R118). -/
  | sneReg (x y : Nibble)
  /-- Annn, LD I, nnn (42_index_memory.md R200). -/
  | ldI (nnn : Addr)
  /-- Bnnn, JP V0, nnn (R114). -/
  | jpV0 (nnn : Addr)
  /-- Cxkk, RND Vx, kk (R162). -/
  | rnd (x : Nibble) (kk : Byte)
  /-- Dxyn, DRW Vx, Vy, n (43_display.md R233). -/
  | drw (x y n : Nibble)
  /-- Ex9E, SKP Vx (R119). -/
  | skp (x : Nibble)
  /-- ExA1, SKNP Vx (R120). -/
  | sknp (x : Nibble)
  /-- Fx07, LD Vx, DT (44_timers_keypad.md R260). -/
  | ldVxDt (x : Nibble)
  /-- Fx0A, LD Vx, K (R263). -/
  | ldVxK (x : Nibble)
  /-- Fx15, LD DT, Vx (R261). -/
  | ldDtVx (x : Nibble)
  /-- Fx18, LD ST, Vx (R262). -/
  | ldStVx (x : Nibble)
  /-- Fx1E, ADD I, Vx (R201). -/
  | addIVx (x : Nibble)
  /-- Fx29, LD F, Vx (R202). -/
  | ldFVx (x : Nibble)
  /-- Fx33, LD B, Vx (R203). -/
  | ldBVx (x : Nibble)
  /-- Fx55, LD [I], Vx (R204). -/
  | ldMemVx (x : Nibble)
  /-- Fx65, LD Vx, [I] (R205). -/
  | ldVxMem (x : Nibble)
deriving DecidableEq, Repr

/-- The operand shapes of 30_encoding.md R86. -/
inductive Format where
  | w
  | nnn
  | xkk
  | xys
  | xyn
  | xss
deriving DecidableEq, Repr

/-- The format each row of the opcode table carries (R86). -/
def Instr.format : Instr → Format
  | .cls | .ret => .w
  | .sys _ | .jp _ | .call _ | .ldI _ | .jpV0 _ => .nnn
  | .seImm _ _ | .sneImm _ _ | .ldImm _ _ | .addImm _ _ | .rnd _ _ => .xkk
  | .seReg _ _ | .ldReg _ _ | .orReg _ _ | .andReg _ _ | .xorReg _ _ | .addReg _ _ | .subReg _ _
  | .shr _ _ | .subnReg _ _ | .shl _ _ | .sneReg _ _ => .xys
  | .drw _ _ _ => .xyn
  | .skp _ | .sknp _ | .ldVxDt _ | .ldVxK _ | .ldDtVx _ | .ldStVx _ | .addIVx _ | .ldFVx _ | .ldBVx _
  | .ldMemVx _ | .ldVxMem _ => .xss

end Sys2Proof
end

