-- ==== Sys2Proof/WellFormed.lean ====
section
/-! DEFINITION. Which instruction terms stand for a word of the opcode table. The field widths are in the types, so one
check is left: SYS covers only the group-0 words that are not CLS or RET (30_encoding.md R88, R92). -/

namespace Sys2Proof

/-- SYS nnn with w not in 0x00E0, 0x00EE (40_control_flow.md R111). -/
def sysFieldOk (nnn : Addr) : Bool :=
  nnn != 0x0E0 && nnn != 0x0EE

/-- Every operand at every value its field admits, but for the two words SYS does not cover. -/
def Instr.wf : Instr → Bool
  | .sys nnn => sysFieldOk nnn
  | .cls | .ret | .jp _ | .call _ | .seImm _ _ | .sneImm _ _ | .seReg _ _ | .ldImm _ _ | .addImm _ _
  | .ldReg _ _ | .orReg _ _ | .andReg _ _ | .xorReg _ _ | .addReg _ _ | .subReg _ _ | .shr _ _
  | .subnReg _ _ | .shl _ _ | .sneReg _ _ | .ldI _ | .jpV0 _ | .rnd _ _ | .drw _ _ _ | .skp _ | .sknp _
  | .ldVxDt _ | .ldVxK _ | .ldDtVx _ | .ldStVx _ | .addIVx _ | .ldFVx _ | .ldBVx _ | .ldMemVx _
  | .ldVxMem _ => true

end Sys2Proof
end

