-- ==== Sys2Proof/Decode.lean ====
section
/-! DEFINITION. Fields (30_encoding.md R83 to R85), decode (R87, R88, R91 to R94), the encoder written from the same
opcode map (R90), and the table's match and mask of each row (spec/opcode_table.json). -/

namespace Sys2Proof

/-- Bits 7..4 of a byte. -/
def hiNibble (b : Byte) : Nibble := b.extractLsb' 4 4

/-- Bits 3..0 of a byte. -/
def loNibble (b : Byte) : Nibble := b.extractLsb' 0 4

/-- The major opcode w[15:12] = b1[7:4] (R83). -/
def fieldOp (b1 : Byte) : Nibble := hiNibble b1

/-- x = w[11:8] = b1[3:0] (R83). -/
def fieldX (b1 : Byte) : Nibble := loNibble b1

/-- y = w[7:4] = b2[7:4] (R83). -/
def fieldY (b2 : Byte) : Nibble := hiNibble b2

/-- n = w[3:0] = b2[3:0] (R83). -/
def fieldN (b2 : Byte) : Nibble := loNibble b2

/-- nnn = x ++ y ++ n = w[11:0] (R84). -/
def fieldNnn (b1 b2 : Byte) : Addr := fieldX b1 ++ b2

/-- Group 0: the test compares the whole word (R88); every other word is SYS, whose fate is SYS_POLICY (R92). -/
def decodeGroup0 (b1 b2 : Byte) : Instr :=
  if b1 = 0x00#8 ∧ b2 = 0xE0#8 then .cls
  else if b1 = 0x00#8 ∧ b2 = 0xEE#8 then .ret
  else .sys (fieldNnn b1 b2)

/-- Group 8, keyed by the low nibble (R88). -/
def decodeGroup8 (x y n : Nibble) : Option Instr :=
  match n with
  | 0x0#4 => some (.ldReg x y)
  | 0x1#4 => some (.orReg x y)
  | 0x2#4 => some (.andReg x y)
  | 0x3#4 => some (.xorReg x y)
  | 0x4#4 => some (.addReg x y)
  | 0x5#4 => some (.subReg x y)
  | 0x6#4 => some (.shr x y)
  | 0x7#4 => some (.subnReg x y)
  | 0xE#4 => some (.shl x y)
  | _ => none

/-- Group E, keyed by the low byte (R88). -/
def decodeGroupE (x : Nibble) (kk : Byte) : Option Instr :=
  match kk with
  | 0x9E#8 => some (.skp x)
  | 0xA1#8 => some (.sknp x)
  | _ => none

/-- Group F, keyed by the low byte (R88). -/
def decodeGroupF (x : Nibble) (kk : Byte) : Option Instr :=
  match kk with
  | 0x07#8 => some (.ldVxDt x)
  | 0x0A#8 => some (.ldVxK x)
  | 0x15#8 => some (.ldDtVx x)
  | 0x18#8 => some (.ldStVx x)
  | 0x1E#8 => some (.addIVx x)
  | 0x29#8 => some (.ldFVx x)
  | 0x33#8 => some (.ldBVx x)
  | 0x55#8 => some (.ldMemVx x)
  | 0x65#8 => some (.ldVxMem x)
  | _ => none

/-- The 35-row table alone, with SYS counted (R88, R90): none exactly where no row matches. -/
def decodeTable (b1 b2 : Byte) : Option Instr :=
  match fieldOp b1 with
  | 0x0#4 => some (decodeGroup0 b1 b2)
  | 0x1#4 => some (.jp (fieldNnn b1 b2))
  | 0x2#4 => some (.call (fieldNnn b1 b2))
  | 0x3#4 => some (.seImm (fieldX b1) b2)
  | 0x4#4 => some (.sneImm (fieldX b1) b2)
  | 0x5#4 => if fieldN b2 = 0#4 then some (.seReg (fieldX b1) (fieldY b2)) else none
  | 0x6#4 => some (.ldImm (fieldX b1) b2)
  | 0x7#4 => some (.addImm (fieldX b1) b2)
  | 0x8#4 => decodeGroup8 (fieldX b1) (fieldY b2) (fieldN b2)
  | 0x9#4 => if fieldN b2 = 0#4 then some (.sneReg (fieldX b1) (fieldY b2)) else none
  | 0xA#4 => some (.ldI (fieldNnn b1 b2))
  | 0xB#4 => some (.jpV0 (fieldNnn b1 b2))
  | 0xC#4 => some (.rnd (fieldX b1) b2)
  | 0xD#4 => some (.drw (fieldX b1) (fieldY b2) (fieldN b2))
  | 0xE#4 => decodeGroupE (fieldX b1) b2
  | _ => decodeGroupF (fieldX b1) b2

/-- What decoding two bytes gives: an instruction, or the error BadOperation with both bytes (R91). -/
inductive Decoded where
  | instr (i : Instr)
  | badOperation (b1 b2 : Byte)
deriving DecidableEq, Repr

/-- Decode(b1, b2) of R88: total on all 65536 words, a function of the bytes and SYS_POLICY only (R94). -/
def decode (p : SysPolicy) (b1 b2 : Byte) : Decoded :=
  match decodeTable b1 b2, p with
  | none, _ => .badOperation b1 b2
  | some (.sys _), .fault => .badOperation b1 b2
  | some i, _ => .instr i

/-- Format NNN: op in w[15:12], nnn in w[11:0] (R86). -/
def encodeNnn (op : Nibble) (nnn : Addr) : Byte × Byte :=
  (op ++ nnn.extractLsb' 8 4, nnn.extractLsb' 0 8)

/-- Format XKK; XSS is the same shape with a fixed low byte (R86). -/
def encodeXkk (op x : Nibble) (kk : Byte) : Byte × Byte :=
  (op ++ x, kk)

/-- Format XYN; XYS is the same shape with a fixed low nibble (R86). -/
def encodeXyn (op x y n : Nibble) : Byte × Byte :=
  (op ++ x, y ++ n)

/-- The two bytes of an instruction, the one at the lower address first (20_memory.md R55), from the patterns of R90. -/
def encode : Instr → Byte × Byte
  | .sys nnn => encodeNnn 0x0#4 nnn
  | .cls => (0x00#8, 0xE0#8)
  | .ret => (0x00#8, 0xEE#8)
  | .jp nnn => encodeNnn 0x1#4 nnn
  | .call nnn => encodeNnn 0x2#4 nnn
  | .seImm x kk => encodeXkk 0x3#4 x kk
  | .sneImm x kk => encodeXkk 0x4#4 x kk
  | .seReg x y => encodeXyn 0x5#4 x y 0x0#4
  | .ldImm x kk => encodeXkk 0x6#4 x kk
  | .addImm x kk => encodeXkk 0x7#4 x kk
  | .ldReg x y => encodeXyn 0x8#4 x y 0x0#4
  | .orReg x y => encodeXyn 0x8#4 x y 0x1#4
  | .andReg x y => encodeXyn 0x8#4 x y 0x2#4
  | .xorReg x y => encodeXyn 0x8#4 x y 0x3#4
  | .addReg x y => encodeXyn 0x8#4 x y 0x4#4
  | .subReg x y => encodeXyn 0x8#4 x y 0x5#4
  | .shr x y => encodeXyn 0x8#4 x y 0x6#4
  | .subnReg x y => encodeXyn 0x8#4 x y 0x7#4
  | .shl x y => encodeXyn 0x8#4 x y 0xE#4
  | .sneReg x y => encodeXyn 0x9#4 x y 0x0#4
  | .ldI nnn => encodeNnn 0xA#4 nnn
  | .jpV0 nnn => encodeNnn 0xB#4 nnn
  | .rnd x kk => encodeXkk 0xC#4 x kk
  | .drw x y n => encodeXyn 0xD#4 x y n
  | .skp x => encodeXkk 0xE#4 x 0x9E#8
  | .sknp x => encodeXkk 0xE#4 x 0xA1#8
  | .ldVxDt x => encodeXkk 0xF#4 x 0x07#8
  | .ldVxK x => encodeXkk 0xF#4 x 0x0A#8
  | .ldDtVx x => encodeXkk 0xF#4 x 0x15#8
  | .ldStVx x => encodeXkk 0xF#4 x 0x18#8
  | .addIVx x => encodeXkk 0xF#4 x 0x1E#8
  | .ldFVx x => encodeXkk 0xF#4 x 0x29#8
  | .ldBVx x => encodeXkk 0xF#4 x 0x33#8
  | .ldMemVx x => encodeXkk 0xF#4 x 0x55#8
  | .ldVxMem x => encodeXkk 0xF#4 x 0x65#8

/-- The instruction word w = b1 ++ b2 (R83). -/
def wordOf (b1 b2 : Byte) : Word := b1 ++ b2

/-- The high byte of a word, the one at the lower address (20_memory.md R55). -/
def hiByte (w : Word) : Byte := w.extractLsb' 8 8

/-- The low byte of a word. -/
def loByte (w : Word) : Byte := w.extractLsb' 0 8

/-- The "match" of the instruction's row in spec/opcode_table.json. -/
def rowMatch : Instr → Word
  | .sys _ => 0x0000
  | .cls => 0x00E0
  | .ret => 0x00EE
  | .jp _ => 0x1000
  | .call _ => 0x2000
  | .seImm _ _ => 0x3000
  | .sneImm _ _ => 0x4000
  | .seReg _ _ => 0x5000
  | .ldImm _ _ => 0x6000
  | .addImm _ _ => 0x7000
  | .ldReg _ _ => 0x8000
  | .orReg _ _ => 0x8001
  | .andReg _ _ => 0x8002
  | .xorReg _ _ => 0x8003
  | .addReg _ _ => 0x8004
  | .subReg _ _ => 0x8005
  | .shr _ _ => 0x8006
  | .subnReg _ _ => 0x8007
  | .shl _ _ => 0x800E
  | .sneReg _ _ => 0x9000
  | .ldI _ => 0xA000
  | .jpV0 _ => 0xB000
  | .rnd _ _ => 0xC000
  | .drw _ _ _ => 0xD000
  | .skp _ => 0xE09E
  | .sknp _ => 0xE0A1
  | .ldVxDt _ => 0xF007
  | .ldVxK _ => 0xF00A
  | .ldDtVx _ => 0xF015
  | .ldStVx _ => 0xF018
  | .addIVx _ => 0xF01E
  | .ldFVx _ => 0xF029
  | .ldBVx _ => 0xF033
  | .ldMemVx _ => 0xF055
  | .ldVxMem _ => 0xF065

/-- The "mask" a format leaves fixed in the table (R86). -/
def formatMask : Format → Word
  | .w => 0xFFFF
  | .nnn | .xkk | .xyn => 0xF000
  | .xys => 0xF00F
  | .xss => 0xF0FF

/-- The instruction the decoder reads from a table word of nbits bits, every higher bit zero. The word is laid out
big-endian (20_memory.md R55) and read with the full 35-row table, that is with SYS_POLICY = nop (log 9). -/
def decodeTableWord (nbits w : Nat) : Option Instr :=
  let word : Word := BitVec.ofNat 16 (w % 2 ^ nbits)
  match decode .nop (hiByte word) (loByte word) with
  | .instr i => some i
  | .badOperation _ _ => none

end Sys2Proof
end

