-- ==== Sys2Proof/Machine/State.lean ====
section
/-! DEFINITION. All the state the spec gives the machine (10_state.md, 60_exceptions.md R306), the host's side of the
interface (R300, R302, 10_state.md R39 to R41), the reasons a step can stop, and the state after reset
(70_reset_and_hazards.md R350). -/

namespace Sys2Proof.Machine

/-- The errors of 60_exceptions.md R306 with what each records. They are values of the `fault` latch (10_state.md R38):
raising one is a step of the machine, not a stop of the model. -/
inductive MachineError where
  /-- A word that decodes to no instruction; the two fetched bytes. -/
  | badOperation (b1 b2 : Byte)
  /-- RET with SP = 0. -/
  | emptyStack
  /-- CALL with SP = 16. -/
  | fullStack
  /-- PC > 0xFFE at the start of a TICK. -/
  | programCounterOutOfBounds
  /-- LOAD of more than 3584 bytes. -/
  | memoryOverflow
  /-- A data address above 0xFFF under MEM_OOB_POLICY = fault; the lowest offending address. -/
  | memoryAccessOutOfBounds (ea : Nat)
  /-- A key index above 15 under KEY_INDEX_POLICY = fault; the register value. -/
  | keyIndexOutOfRange (v : Byte)
deriving DecidableEq, Repr

/-- The codes of R306. They are labels: nothing in the machine reads them. -/
def MachineError.code : MachineError → Nat
  | .badOperation _ _ => 1
  | .emptyStack => 2
  | .fullStack => 3
  | .programCounterOutOfBounds => 4
  | .memoryOverflow => 5
  | .memoryAccessOutOfBounds _ => 6
  | .keyIndexOutOfRange _ => 7

/-- One thing the host does between two host reads: an operation of 60_exceptions.md R300, or driving the two quirk
inputs to new levels (10_state.md R41, 70_reset_and_hazards.md R356). -/
inductive HostOp where
  /-- TICK(keys, rand); the byte rand is drawn only by Cxkk (41_alu.md R162), see Env.rands. -/
  | tick (keys : Word)
  /-- FRAME(). -/
  | frame
  /-- KEY_EDGE(edge). -/
  | keyEdge (edge : Word)
  /-- KEY_POLL(keys). -/
  | keyPoll (keys : Word)
  /-- LOAD(bytes). -/
  | load (bytes : List Byte)
  /-- RESET(). -/
  | reset
  /-- The host sets its quirk toggles. It touches nothing of the block. -/
  | drive (shiftReadsVy indexIncrements : Bool)
deriving DecidableEq, Repr

/-- The host's side of the interface. None of it is state of the block (10_state.md R39 to R41). DESIGN CHOICE (log 2 to
log 5): it stands in State as plain data, so a statement about every state covers every schedule and every input. -/
structure Env where
  /-- The operations the host will issue next, oldest first; when there is none left it issues TICK(keys) (log 2). -/
  ops : List HostOp
  /-- The keys input of the TICK being executed: bit i is key i held down (00_scope.md R16). -/
  keys : Word
  /-- The quirk input of 8xy6 and 8xyE (41_alu.md R164). -/
  shiftReadsVy : Bool
  /-- The quirk input of Fx55 and Fx65 (42_index_memory.md R206). -/
  indexIncrements : Bool
  /-- The bytes the random source is known to supply next, oldest first (log 5). -/
  rands : List Byte
  /-- How many bytes were drawn from the free source Config.freeRand (log 5). -/
  draws : Nat
deriving DecidableEq, Repr

/-- The framebuffer FB: 256 bytes, 8 pixels a byte, row-major (10_state.md R32). -/
abbrev Framebuffer := Vector Byte 256

/-- The machine. Memory is a list of (address, byte) cells in the canonical form of Memory.wf (Machine/Ops.lean). -/
structure State where
  /-- V0..VF (10_state.md R20, R21). -/
  v : Vector Byte 16
  /-- PC (R23). -/
  pc : Word
  /-- I (R24). -/
  i : Word
  /-- S[0]..S[15] (R28). -/
  stack : Vector Word 16
  /-- SP, legal values 0..16 (R29). -/
  sp : Byte
  /-- DT (R30). -/
  dt : Byte
  /-- ST (R31). -/
  st : Byte
  /-- MEM (R25): the cells that differ from the reset contents. -/
  mem : List Host.Cell
  /-- FB (R32). -/
  fb : Framebuffer
  /-- display_changed (R33). -/
  displayChanged : Bool
  /-- sound_active (R34). -/
  soundActive : Bool
  /-- wait_active (R35). -/
  waitActive : Bool
  /-- wait_reg (R36). -/
  waitReg : Nibble
  /-- prev_keys (R37). -/
  prevKeys : Word
  /-- The fault latch (R38). -/
  fault : Option MachineError
  /-- The policy parameters and FONT (00_scope.md R10). -/
  cfg : Config
  /-- The host's side of the interface. -/
  env : Env
deriving DecidableEq, Repr

/-- Why the MODEL stops. The errors of the spec are not here: they are taken (60_exceptions.md R310). -/
inductive Fault where
  /-- Raised by CALL and RET when SP holds a value above 16. R29 gives SP the legal values 0..16 and no operation leaves
  them, so no state a machine can reach raises it. Safe: the model stops (log 7). -/
  | illegalStackPointer
deriving DecidableEq, Repr

/-- Why an instruction has no meaning. -/
inductive Refusal where
  /-- Raised by exec's arm of an instruction the model has not reached. Safe: nothing is claimed of it. -/
  | notModelled (mnemonic : String)
deriving DecidableEq, Repr

/-- The host after reset: nothing scheduled, no key down, both quirk inputs low, nothing drawn. DESIGN CHOICE (log 2 to
log 5): the spec gives these inputs no value; no statement rests on them. -/
def Env.initial : Env where
  ops := []
  keys := 0x0000
  shiftReadsVy := false
  indexIncrements := false
  rands := []
  draws := 0

/-- Every piece of state at its value of 70_reset_and_hazards.md R350; the parameters at the defaults of 00_scope.md R10.
No memory cell is listed: an unlisted address reads as the reset contents. -/
def State.reset : State where
  v := Vector.replicate 16 0x00
  pc := 0x0200
  i := 0x0000
  stack := Vector.replicate 16 0x0000
  sp := 0
  dt := 0
  st := 0
  mem := []
  fb := Vector.replicate 256 0x00
  displayChanged := false
  soundActive := false
  waitActive := false
  waitReg := 0
  prevKeys := 0x0000
  fault := none
  cfg := Config.defaults
  env := Env.initial

end Sys2Proof.Machine
end

