-- ==== Sys2Proof/Machine/Ops.lean ====
section
/-! DEFINITION. The named operations over registers, the stack and memory, the control directive and its application
(30_encoding.md R95), and the one error entry every error takes (60_exceptions.md R309, R310). -/

namespace Sys2Proof.Machine

/-! ## Registers -/

/-- V[r] (00_scope.md R13, 10_state.md R20). -/
def State.getV (s : State) (r : Nibble) : Byte := s.v[r.toNat]'r.isLt

/-- V[r] <- b. No register is hardwired (R20). -/
def State.setV (s : State) (r : Nibble) (b : Byte) : State := { s with v := s.v.set r.toNat b r.isLt }

/-- All of V0..VF at once. -/
def State.setRegs (s : State) (v : Vector Byte 16) : State := { s with v := v }

/-- PC <- a. Only the directive, RESET and LOAD write PC (10_state.md R23). -/
def State.setPc (s : State) (a : Word) : State := { s with pc := a }

/-- I <- a. -/
def State.setI (s : State) (a : Word) : State := { s with i := a }

/-- DT <- b. -/
def State.setDt (s : State) (b : Byte) : State := { s with dt := b }

/-- ST <- b. -/
def State.setSt (s : State) (b : Byte) : State := { s with st := b }

/-- SP <- b. -/
def State.setSp (s : State) (b : Byte) : State := { s with sp := b }

/-- The stack array. -/
def State.setStack (s : State) (st : Vector Word 16) : State := { s with stack := st }

/-- The memory cells. -/
def State.setMem (s : State) (m : List Host.Cell) : State := { s with mem := m }

/-- The framebuffer. -/
def State.setFb (s : State) (fb : Framebuffer) : State := { s with fb := fb }

/-- display_changed <- b. -/
def State.setDisplayChanged (s : State) (b : Bool) : State := { s with displayChanged := b }

/-- sound_active <- b. -/
def State.setSoundActive (s : State) (b : Bool) : State := { s with soundActive := b }

/-- wait_active <- b. -/
def State.setWaitActive (s : State) (b : Bool) : State := { s with waitActive := b }

/-- wait_reg <- r. -/
def State.setWaitReg (s : State) (r : Nibble) : State := { s with waitReg := r }

/-- prev_keys <- m. -/
def State.setPrevKeys (s : State) (m : Word) : State := { s with prevKeys := m }

/-- fault <- e. -/
def State.setFault (s : State) (e : Option MachineError) : State := { s with fault := e }

/-- The host's side of the interface. -/
def State.setEnv (s : State) (e : Env) : State := { s with env := e }

/-- V[k] <- b for k = first, first + 1, ... over the bytes, ascending (42_index_memory.md R205). -/
def writeRegs : Nat → List Byte → Vector Byte 16 → Vector Byte 16
  | _, [], v => v
  | k, b :: bs, v => writeRegs (k + 1) bs (v.setIfInBounds k b)

/-- V0..V[x], inclusive of x (42_index_memory.md R204). -/
def State.regsUpTo (s : State) (x : Nibble) : List Byte := s.v.toList.take (x.toNat + 1)

/-! ## Stack -/

/-- S[k], when there is such an entry (10_state.md R28). -/
def State.stackAt (s : State) (k : Nat) : Option Word := s.stack[k]?

/-- S[SP] <- a; SP <- SP + 1 (40_control_flow.md R113). -/
def State.pushReturn (s : State) (a : Word) : State :=
  (s.setStack (s.stack.setIfInBounds s.sp.toNat a)).setSp (s.sp + 1)

/-! ## Memory -/

/-- What an unlisted address reads as: the reset contents, FONT at 0x000..0x04F and zero elsewhere
(70_reset_and_hazards.md R350, 10_state.md R25 to R27). -/
def Memory.unlisted (font : Vector Byte 80) (a : Nat) : Byte := font[a]?.getD 0x00

/-- The canonical form: addresses strictly rising and below 4096, and no cell equal to what its address reads as
unlisted. Equal memories are then equal lists (log 8). -/
abbrev Memory.wf (font : Vector Byte 80) (m : List Host.Cell) : Prop :=
  m.Pairwise (fun c d => c.1 < d.1) ∧ ∀ c ∈ m, c.1 < Config.memorySize ∧ c.2 ≠ Memory.unlisted font c.1

/-- The byte at address a, or d where a is not listed. -/
def Memory.lookup (d : Byte) : List Host.Cell → Nat → Byte
  | [], _ => d
  | c :: m, a => if c.1 = a then c.2 else Memory.lookup d m a

/-- The cells after storing b at a, where a reads as d when it is not listed. -/
def Memory.insert (d : Byte) (a : Nat) (b : Byte) : List Host.Cell → List Host.Cell
  | [] => if b = d then [] else [(a, b)]
  | c :: m =>
    if c.1 < a then c :: Memory.insert d a b m
    else if c.1 = a then (if b = d then m else (a, b) :: m)
    else (if b = d then c :: m else (a, b) :: c :: m)

/-- MEM[a] (10_state.md R25). Reads have no side effects (20_memory.md R61). -/
def State.readByte (s : State) (a : Nat) : Byte := Memory.lookup (Memory.unlisted s.cfg.font a) s.mem a

/-- MEM[a] <- b. No address is protected (20_memory.md R54). -/
def State.writeByte (s : State) (a : Nat) (b : Byte) : State :=
  s.setMem (Memory.insert (Memory.unlisted s.cfg.font a) a b s.mem)

/-- Resolve(ea) (20_memory.md R53). -/
def resolve (p : MemOobPolicy) (ea : Nat) : Except MachineError Nat :=
  if ea ≤ 0xFFF then .ok ea
  else
    match p with
    | .fault => .error (.memoryAccessOutOfBounds ea)
    | .wrap => .ok (ea % Config.memorySize)

/-- Resolve(base), Resolve(base + 1), ... for n addresses, ascending: the error of the lowest one that has one
(42_index_memory.md R203 to R205, 43_display.md R233). base + k is a natural number with no wrap (20_memory.md R51). -/
def resolveRange (p : MemOobPolicy) : Nat → Nat → Except MachineError (List Nat)
  | _, 0 => .ok []
  | base, n + 1 =>
    match resolve p base with
    | .error e => .error e
    | .ok a =>
      match resolveRange p (base + 1) n with
      | .error e => .error e
      | .ok as => .ok (a :: as)

/-- The bytes at resolved addresses, in their order. -/
def State.loadBytes (s : State) (as : List Nat) : List Byte := as.map s.readByte

/-- Stores to resolved addresses, in their order. -/
def State.storeBytes (s : State) : List Nat → List Byte → State
  | a :: as, b :: bs => (s.writeByte a b).storeBytes as bs
  | _, _ => s

/-- The bytes p at a, a + 1, ... (LOAD, 70_reset_and_hazards.md R353). -/
def State.storeImage (s : State) (a : Nat) : List Byte → State
  | [] => s
  | b :: bs => (s.writeByte a b).storeImage (a + 1) bs

/-! ## Control directive -/

/-- What a completed instruction returns to the tick (30_encoding.md R95). -/
inductive Directive where
  | advance
  | skipNext
  | jumpTo (a : Word)
deriving DecidableEq, Repr

/-- SkipNext if the condition holds, else Advance (40_control_flow.md R115 to R120). -/
def skipIf (c : Bool) : Directive := if c then .skipNext else .advance

/-- Apply(dir) at PC, modulo 2^16 (R95). -/
def applyDirective (d : Directive) (pc : Word) : Word :=
  match d with
  | .advance => pc + 2
  | .skipNext => pc + 4
  | .jumpTo a => a

/-- The end of an instruction that completes: the tick applies its directive. -/
def complete (d : Directive) (s : State) : Host.Outcome State Fault Refusal :=
  .next (s.setPc (applyDirective d s.pc))

/-! ## Errors -/

/-- Error entry (60_exceptions.md R309, R310): `fault` takes the error and nothing else changes. DEDUCED (log 6): it is
a next state, since the machine's later behaviour (R312, R352, R353) is the spec's. -/
def raise (e : MachineError) (s : State) : Host.Outcome State Fault Refusal :=
  .next (s.setFault (some e))

end Sys2Proof.Machine
end

