-- ==== Sys2Proof/Machine/Flags.lean ====
section
/-! DEFINITION. The flag computations: carry, not-borrow and shifted-out bits (41_alu.md R157 to R163), and WriteRF, the
one way an ALU operation writes its result and its flag (R150). The collision flag is in Machine/Framebuffer.lean. -/

namespace Sys2Proof.Machine

/-- The carry of a + b: the exact sum is at least 256 (R157). -/
def carryOf (a b : Byte) : Bool := decide (256 ≤ a.toNat + b.toNat)

/-- NOT borrow of a - b: a >= b, equal operands included (R158, R160). -/
def notBorrowOf (a b : Byte) : Bool := decide (b.toNat ≤ a.toNat)

/-- The bit a right shift by one shifts out (R159). -/
def shrOut (a : Byte) : Bool := a.getLsbD 0

/-- The bit a left shift by one shifts out (R161). -/
def shlOut (a : Byte) : Bool := a.getLsbD 7

/-- zext_8(f). -/
def flagByte (f : Bool) : Byte := if f then 0x01 else 0x00

/-- WriteRF(x, r, f): both writes, in the order of VF_ORDER (R150). -/
def State.writeRF (s : State) (x : Nibble) (r : Byte) (f : Bool) : State :=
  match s.cfg.vfOrder with
  | .flagLast => (s.setV x r).setV 0xF#4 (flagByte f)
  | .resultLast => (s.setV 0xF#4 (flagByte f)).setV x r

end Sys2Proof.Machine
end

