-- ==== Sys2Proof/Machine/Operands.lean ====
section
/-! DEFINITION. The operand forms (30_encoding.md R85): what an instruction computes from its fields and the state before
it writes anything. -/

namespace Sys2Proof.Machine

/-- zext_16(nnn) (R85). -/
def zextAddr (nnn : Addr) : Word := nnn.setWidth 16

/-- zext_16(b). -/
def zextByte (b : Byte) : Word := b.setWidth 16

/-- ShiftSource(x, y) (41_alu.md R164). -/
def State.shiftSource (s : State) (x y : Nibble) : Byte :=
  if s.env.shiftReadsVy then s.getV y else s.getV x

/-- KeyIndex(v) (40_control_flow.md R121). -/
def keyIndex (p : KeyIndexPolicy) (v : Byte) : Except MachineError Nat :=
  if v.toNat ≤ 15 then .ok v.toNat
  else
    match p with
    | .fault => .error (.keyIndexOutOfRange v)
    | .mod16 => .ok (v.toNat % 16)

/-- keys[k] of this TICK (40_control_flow.md R119). -/
def State.keyDown (s : State) (k : Nat) : Bool := s.env.keys.getLsbD k

/-- The address of a hex digit's glyph (42_index_memory.md R202). -/
def glyphAddr (b : Byte) : Word := zextByte (b &&& 0x0F) * 5

/-- Hundreds, tens, ones (42_index_memory.md R203). -/
def bcdDigits (b : Byte) : List Byte :=
  [BitVec.ofNat 8 (b.toNat / 100), BitVec.ofNat 8 (b.toNat / 10 % 10), BitVec.ofNat 8 (b.toNat % 10)]

/-- I after Fx55 and Fx65: I + x + 1 under the quirk, else unchanged (42_index_memory.md R206). -/
def State.indexAfter (s : State) (x : Nibble) : Word :=
  if s.env.indexIncrements then s.i + x.setWidth 16 + 1 else s.i

/-- The byte the random source supplies to this Cxkk (41_alu.md R162): the next known one, else a free one (log 5). -/
def Env.nextRand (e : Env) : Byte :=
  match e.rands with
  | b :: _ => b
  | [] => Config.freeRand e.draws

/-- The source after that draw. -/
def Env.afterDraw (e : Env) : Env :=
  match e.rands with
  | _ :: bs => { e with rands := bs }
  | [] => { e with draws := e.draws + 1 }

end Sys2Proof.Machine
end

