-- ==== Sys2Proof/Machine/Alu.lean ====
section
/-! DEFINITION. Register loads, ALU and random (41_alu.md). All advance; none can raise an error. -/

namespace Sys2Proof.Machine

/-- LD Vx, kk (R151). -/
def execLdImm (x : Nibble) (kk : Byte) (s : State) : Host.Outcome State Fault Refusal :=
  complete .advance (s.setV x kk)

/-- ADD Vx, kk (R152): modulo 256, VF is no flag here. -/
def execAddImm (x : Nibble) (kk : Byte) (s : State) : Host.Outcome State Fault Refusal :=
  complete .advance (s.setV x (s.getV x + kk))

/-- LD Vx, Vy (R153). -/
def execLdReg (x y : Nibble) (s : State) : Host.Outcome State Fault Refusal :=
  complete .advance (s.setV x (s.getV y))

/-- OR Vx, Vy (R154): VF unchanged unless x = 15. -/
def execOrReg (x y : Nibble) (s : State) : Host.Outcome State Fault Refusal :=
  complete .advance (s.setV x (s.getV x ||| s.getV y))

/-- AND Vx, Vy (R155). -/
def execAndReg (x y : Nibble) (s : State) : Host.Outcome State Fault Refusal :=
  complete .advance (s.setV x (s.getV x &&& s.getV y))

/-- XOR Vx, Vy (R156). -/
def execXorReg (x y : Nibble) (s : State) : Host.Outcome State Fault Refusal :=
  complete .advance (s.setV x (s.getV x ^^^ s.getV y))

/-- ADD Vx, Vy (R157): VF := carry. -/
def execAddReg (x y : Nibble) (s : State) : Host.Outcome State Fault Refusal :=
  complete .advance (s.writeRF x (s.getV x + s.getV y) (carryOf (s.getV x) (s.getV y)))

/-- SUB Vx, Vy (R158): VF := NOT borrow. -/
def execSubReg (x y : Nibble) (s : State) : Host.Outcome State Fault Refusal :=
  complete .advance (s.writeRF x (s.getV x - s.getV y) (notBorrowOf (s.getV x) (s.getV y)))

/-- SHR Vx, Vy (R159): the source is ShiftSource(x, y), the result goes to Vx. -/
def execShr (x y : Nibble) (s : State) : Host.Outcome State Fault Refusal :=
  complete .advance (s.writeRF x (s.shiftSource x y >>> 1) (shrOut (s.shiftSource x y)))

/-- SUBN Vx, Vy (R160): Vy - Vx. -/
def execSubnReg (x y : Nibble) (s : State) : Host.Outcome State Fault Refusal :=
  complete .advance (s.writeRF x (s.getV y - s.getV x) (notBorrowOf (s.getV y) (s.getV x)))

/-- SHL Vx, Vy (R161). -/
def execShl (x y : Nibble) (s : State) : Host.Outcome State Fault Refusal :=
  complete .advance (s.writeRF x (s.shiftSource x y <<< 1) (shlOut (s.shiftSource x y)))

/-- RND Vx, kk (R162): one draw, masked. -/
def execRnd (x : Nibble) (kk : Byte) (s : State) : Host.Outcome State Fault Refusal :=
  complete .advance ((s.setV x (s.env.nextRand &&& kk)).setEnv s.env.afterDraw)

end Sys2Proof.Machine
end

