-- ==== Sys2Proof/Machine/Control.lean ====
section
/-! DEFINITION. Control flow, skips and the stack (40_control_flow.md). -/

namespace Sys2Proof.Machine

/-- RET (R110). SP above 16 has no entry to read: log 7. -/
def execRet (s : State) : Host.Outcome State Fault Refusal :=
  if s.sp = 0#8 then raise .emptyStack s
  else
    match s.stackAt (s.sp - 1).toNat with
    | some a => complete (.jumpTo a) (s.setSp (s.sp - 1))
    | none => .fault .illegalStackPointer

/-- SYS nnn (R111): it exists only under SYS_POLICY = nop. Under fault its two bytes raise BadOperation, which decode does
before this is reached (30_encoding.md R92, log 10). -/
def execSys (nnn : Addr) (s : State) : Host.Outcome State Fault Refusal :=
  match s.cfg.sysPolicy with
  | .nop => complete .advance s
  | .fault => raise (.badOperation (nnn.extractLsb' 8 4 |>.setWidth 8) (nnn.extractLsb' 0 8)) s

/-- JP nnn (R112). -/
def execJp (nnn : Addr) (s : State) : Host.Outcome State Fault Refusal :=
  complete (.jumpTo (zextAddr nnn)) s

/-- CALL nnn (R113): the return address PC + 2 is pushed. SP above 16 has no entry to write: log 7. -/
def execCall (nnn : Addr) (s : State) : Host.Outcome State Fault Refusal :=
  if s.sp.toNat = Config.stackDepth then raise .fullStack s
  else if s.sp.toNat < Config.stackDepth then complete (.jumpTo (zextAddr nnn)) (s.pushReturn (s.pc + 2))
  else .fault .illegalStackPointer

/-- JP V0, nnn (R114): 16-bit, no mask. -/
def execJpV0 (nnn : Addr) (s : State) : Host.Outcome State Fault Refusal :=
  complete (.jumpTo (zextAddr nnn + zextByte (s.getV 0#4))) s

/-- SE Vx, kk (R115). -/
def execSeImm (x : Nibble) (kk : Byte) (s : State) : Host.Outcome State Fault Refusal :=
  complete (skipIf (s.getV x == kk)) s

/-- SNE Vx, kk (R116). -/
def execSneImm (x : Nibble) (kk : Byte) (s : State) : Host.Outcome State Fault Refusal :=
  complete (skipIf (s.getV x != kk)) s

/-- SE Vx, Vy (R117). -/
def execSeReg (x y : Nibble) (s : State) : Host.Outcome State Fault Refusal :=
  complete (skipIf (s.getV x == s.getV y)) s

/-- SNE Vx, Vy (R118). -/
def execSneReg (x y : Nibble) (s : State) : Host.Outcome State Fault Refusal :=
  complete (skipIf (s.getV x != s.getV y)) s

/-- SKP Vx (R119). -/
def execSkp (x : Nibble) (s : State) : Host.Outcome State Fault Refusal :=
  match keyIndex s.cfg.keyIndex (s.getV x) with
  | .error e => raise e s
  | .ok k => complete (skipIf (s.keyDown k)) s

/-- SKNP Vx (R120). -/
def execSknp (x : Nibble) (s : State) : Host.Outcome State Fault Refusal :=
  match keyIndex s.cfg.keyIndex (s.getV x) with
  | .error e => raise e s
  | .ok k => complete (skipIf (!s.keyDown k)) s

end Sys2Proof.Machine
end

