-- ==== Sys2Proof/Machine/Framebuffer.lean ====
section
/-! DEFINITION. Pixels of the framebuffer and the sprite blit (43_display.md R230, R231, R233, R234). -/

namespace Sys2Proof.Machine

/-- The byte of FB that holds pixel (px, py): 8*py + px div 8 (R230). -/
def pixByte (px : Fin 64) (py : Fin 32) : Fin 256 := ⟨8 * py.val + px.val / 8, by omega⟩

/-- The bit of that byte: 7 - px mod 8, the most significant bit leftmost (R230). -/
def pixBit (px : Fin 64) : Nat := 7 - px.val % 8

/-- pix(px, py) (R230). -/
def pix (fb : Framebuffer) (px : Fin 64) (py : Fin 32) : Bool := (fb.get (pixByte px py)).getLsbD (pixBit px)

/-- pix(px, py) <- pix(px, py) ^ 1. -/
def flipPix (fb : Framebuffer) (px : Fin 64) (py : Fin 32) : Framebuffer :=
  fb.set (pixByte px py).val (fb.get (pixByte px py) ^^^ (1#8 <<< pixBit px)) (pixByte px py).isLt

/-- An all-clear framebuffer (R232). -/
def clearFb : Framebuffer := Vector.replicate 256 0x00

/-- (x0 + c) mod 64 (R233). -/
def wrapX (x0 c : Nat) : Fin 64 := ⟨(x0 + c) % Config.displayW, Nat.mod_lt _ (by decide)⟩

/-- (y0 + r) mod 32 (R233). -/
def wrapY (y0 r : Nat) : Fin 32 := ⟨(y0 + r) % Config.displayH, Nat.mod_lt _ (by decide)⟩

/-- The pixels the set bits of sprite row r land on, column 0 (the most significant bit, R231) first. -/
def rowPixels (x0 y0 r : Nat) (row : Byte) : List (Fin 64 × Fin 32) :=
  (List.range 8).filterMap (fun c => if row.getLsbD (7 - c) then some (wrapX x0 c, wrapY y0 r) else none)

/-- The pixels of rows r, r + 1, ..., in the order R233 visits them. -/
def spritePixels (x0 y0 : Nat) : Nat → List Byte → List (Fin 64 × Fin 32)
  | _, [] => []
  | r, row :: rows => rowPixels x0 y0 r row ++ spritePixels x0 y0 (r + 1) rows

/-- XOR the listed pixels one after the other; the flag is 1 once one of them was set before its XOR (R233, R234). -/
def blit : List (Fin 64 × Fin 32) → Framebuffer → Bool → Framebuffer × Bool
  | [], fb, hit => (fb, hit)
  | p :: ps, fb, hit => blit ps (flipPix fb p.1 p.2) (hit || pix fb p.1 p.2)

end Sys2Proof.Machine
end

