-- ==== Sys2Proof/Machine/Display.lean ====
section
/-! DEFINITION. Clear and draw (43_display.md). -/

namespace Sys2Proof.Machine

/-- CLS (R232): display_changed is set when CLS_SETS_DISPLAY_CHANGED says so, else left as it is. -/
def execCls (s : State) : Host.Outcome State Fault Refusal :=
  complete .advance
    ((s.setFb clearFb).setDisplayChanged (if s.cfg.clsSetsDisplayChanged then true else s.displayChanged))

/-- DRW Vx, Vy, n (R233): the coordinates are read before VF takes the collision flag, and every address is resolved before
anything is written. -/
def execDrw (x y n : Nibble) (s : State) : Host.Outcome State Fault Refusal :=
  match resolveRange s.cfg.memOob s.i.toNat n.toNat with
  | .error e => raise e s
  | .ok as =>
    let drawn := blit (spritePixels (s.getV x).toNat (s.getV y).toNat 0 (s.loadBytes as)) s.fb false
    complete .advance (((s.setFb drawn.1).setV 0xF#4 (flagByte drawn.2)).setDisplayChanged true)

end Sys2Proof.Machine
end

