-- ==== Sys2Proof/Machine/Index.lean ====
section
/-! DEFINITION. Index register and memory transfers (42_index_memory.md). Every address is resolved before anything is
written, so an error leaves memory, the registers and I as they were. -/

namespace Sys2Proof.Machine

/-- LD I, nnn (R200). -/
def execLdI (nnn : Addr) (s : State) : Host.Outcome State Fault Refusal :=
  complete .advance (s.setI (zextAddr nnn))

/-- ADD I, Vx (R201): modulo 2^16, no flag. -/
def execAddIVx (x : Nibble) (s : State) : Host.Outcome State Fault Refusal :=
  complete .advance (s.setI (s.i + zextByte (s.getV x)))

/-- LD F, Vx (R202). -/
def execLdFVx (x : Nibble) (s : State) : Host.Outcome State Fault Refusal :=
  complete .advance (s.setI (glyphAddr (s.getV x)))

/-- LD B, Vx (R203): hundreds at I, tens at I + 1, ones at I + 2. -/
def execLdBVx (x : Nibble) (s : State) : Host.Outcome State Fault Refusal :=
  match resolveRange s.cfg.memOob s.i.toNat 3 with
  | .error e => raise e s
  | .ok as => complete .advance (s.storeBytes as (bcdDigits (s.getV x)))

/-- LD [I], Vx (R204): V0..Vx inclusive to I.., then the index quirk (R206). -/
def execLdMemVx (x : Nibble) (s : State) : Host.Outcome State Fault Refusal :=
  match resolveRange s.cfg.memOob s.i.toNat (x.toNat + 1) with
  | .error e => raise e s
  | .ok as => complete .advance ((s.storeBytes as (s.regsUpTo x)).setI (s.indexAfter x))

/-- LD Vx, [I] (R205): V0..Vx inclusive from I.., then the index quirk (R206). -/
def execLdVxMem (x : Nibble) (s : State) : Host.Outcome State Fault Refusal :=
  match resolveRange s.cfg.memOob s.i.toNat (x.toNat + 1) with
  | .error e => raise e s
  | .ok as => complete .advance ((s.setRegs (writeRegs 0 (s.loadBytes as) s.v)).setI (s.indexAfter x))

end Sys2Proof.Machine
end

