-- ==== Sys2Proof/Machine/Timers.lean ====
section
/-! DEFINITION. Timer access and the key-wait instruction (44_timers_keypad.md). All advance; none can raise an error. -/

namespace Sys2Proof.Machine

/-- LD Vx, DT (R260). -/
def execLdVxDt (x : Nibble) (s : State) : Host.Outcome State Fault Refusal :=
  complete .advance (s.setV x s.dt)

/-- LD DT, Vx (R261). -/
def execLdDtVx (x : Nibble) (s : State) : Host.Outcome State Fault Refusal :=
  complete .advance (s.setDt (s.getV x))

/-- LD ST, Vx (R262): sound_active waits for the next frame step. -/
def execLdStVx (x : Nibble) (s : State) : Host.Outcome State Fault Refusal :=
  complete .advance (s.setSt (s.getV x))

/-- LD Vx, K (R263, R266): arm the latch with x; V[x] is written later, by KEY_EDGE. -/
def execLdVxK (x : Nibble) (s : State) : Host.Outcome State Fault Refusal :=
  complete .advance ((s.setWaitActive true).setWaitReg x)

end Sys2Proof.Machine
end

