-- ==== Sys2Proof/Machine/HostOps.lean ====
section
/-! DEFINITION. The host operations other than TICK (60_exceptions.md R320 to R322, 70_reset_and_hazards.md R352 to R354)
and the outputs the host reads (60_exceptions.md R303). -/

namespace Sys2Proof.Machine

/-- An 8-bit timer after a frame step: down by one, floored at 0 (60_exceptions.md R320). -/
def countDown (b : Byte) : Byte := if b.toNat > 0 then b - 1 else b

/-- FRAME() (R320), a no-op while an error is latched (R312). -/
def frameStep (s : State) : State :=
  if s.fault.isSome then s
  else
    let t := ((s.setDisplayChanged false).setDt (countDown s.dt)).setSt (countDown s.st)
    t.setSoundActive (decide (t.st.toNat > 0))

/-- The lowest-numbered set bit of a mask, if any (R321). -/
def lowestKey (edge : Word) : Option Nat := (List.range 16).find? (fun k => edge.getLsbD k)

/-- KEY_EDGE(edge) (R321): a pending wait takes the lowest key of a nonzero mask; anything else is a no-op. -/
def keyEdge (edge : Word) (s : State) : State :=
  if s.fault.isSome then s
  else if s.waitActive then
    match lowestKey edge with
    | some k => (s.setV s.waitReg (BitVec.ofNat 8 k)).setWaitActive false
    | none => s
  else s

/-- KEY_POLL(keys) (R322): the keys newly down since the last poll go to KEY_EDGE. -/
def keyPoll (keys : Word) (s : State) : State :=
  if s.fault.isSome then s
  else keyEdge (keys &&& ~~~s.prevKeys) (s.setPrevKeys keys)

/-- RESET() (70_reset_and_hazards.md R350, R352): every piece of state to its reset value, even when an error is latched.
The policy parameters and the inputs are not state and stay (R350, log 11). -/
def resetBlock (s : State) : State := { State.reset with cfg := s.cfg, env := s.env }

/-- The most bytes LOAD accepts: MEMORY_SIZE - PROGRAM_START = 3584 (R353). -/
def maxImage : Nat := Config.memorySize - Config.programStart

/-- LOAD(p) (R353, R354): all or nothing. Only where the machine's failedLoad says so does a LOAD that fails on a block already
faulted leave the first error latched, as 60_exceptions.md R313 has it (log 17). -/
def loadImage (p : List Byte) (s : State) : State :=
  if p.length > maxImage then
    if s.fault.isSome && decide (s.cfg.failedLoad = .keepsError) then s else s.setFault (some .memoryOverflow)
  else (resetBlock s).storeImage Config.programStart p

/-- The host drives the quirk inputs (10_state.md R41, 70_reset_and_hazards.md R356). -/
def driveQuirks (shiftReadsVy indexIncrements : Bool) (s : State) : State :=
  s.setEnv { s.env with shiftReadsVy := shiftReadsVy, indexIncrements := indexIncrements }

/-- What the host can read between operations (60_exceptions.md R303, 10_state.md R43). -/
structure Outputs where
  fb : Framebuffer
  displayChanged : Bool
  soundActive : Bool
  v : Vector Byte 16
  i : Word
  pc : Word
  fault : Option MachineError
deriving DecidableEq, Repr

/-- The outputs of a state; a read changes nothing (R303). -/
def State.outputs (s : State) : Outputs where
  fb := s.fb
  displayChanged := s.displayChanged
  soundActive := s.soundActive
  v := s.v
  i := s.i
  pc := s.pc
  fault := s.fault

end Sys2Proof.Machine
end

