-- ==== Sys2Proof/Machine/Tick.lean ====
section
/-! DEFINITION. The tick cycle (30_encoding.md R80 to R82, 60_exceptions.md R308) and one host operation of any kind
(60_exceptions.md R300). -/

namespace Sys2Proof.Machine

/-- PC lies in [0, MEMORY_SIZE - 2] (30_encoding.md R81). -/
def pcInRange (pc : Word) : Bool := decide (pc.toNat ≤ Config.memorySize - Config.instructionSize)

/-- The two bytes at PC and PC + 1, the first from the lower address (R82, 20_memory.md R55). -/
def State.fetch (s : State) : Byte × Byte := (s.readByte s.pc.toNat, s.readByte (s.pc.toNat + 1))

/-- Under KEY_WAIT_POLICY = hold a pending wait stalls the tick (44_timers_keypad.md R265). -/
def State.stalled (s : State) : Bool := decide (s.cfg.keyWait = .hold) && s.waitActive

/-- Fetch, decode and execute at an in-range PC (R80). -/
def runFetched (s : State) : Host.Outcome State Fault Refusal :=
  match decode s.cfg.sysPolicy s.fetch.1 s.fetch.2 with
  | .badOperation b1 b2 => raise (.badOperation b1 b2) s
  | .instr i => exec i s

/-- TICK, its keys input standing in env.keys (R80). The checks come in the order of R308: the fault latch (R312), the
stall (R265), the PC check (R81), decode (R91), the instruction's own error. -/
def tick (s : State) : Host.Outcome State Fault Refusal :=
  if s.fault.isSome then .next s
  else if s.stalled then .next s
  else if pcInRange s.pc then runFetched s
  else raise .programCounterOutOfBounds s

/-- One host operation (60_exceptions.md R300). Only TICK can end otherwise than in a next state. -/
def runOp (op : HostOp) (s : State) : Host.Outcome State Fault Refusal :=
  match op with
  | .tick keys => tick (s.setEnv { s.env with keys := keys })
  | .frame => .next (frameStep s)
  | .keyEdge edge => .next (keyEdge edge s)
  | .keyPoll keys => .next (keyPoll keys s)
  | .load bytes => .next (loadImage bytes s)
  | .reset => .next (resetBlock s)
  | .drive shiftReadsVy indexIncrements => .next (driveQuirks shiftReadsVy indexIncrements s)

/-- What the host is given back by an operation that left the block in state t (R300): TICK answers ok or the error latched
(R310, R312), LOAD answers ok or MemoryOverflow (70_reset_and_hazards.md R353), every other operation answers ok (log 12). -/
def opResult (op : HostOp) (t : State) : Option MachineError :=
  match op with
  | .tick _ => t.fault
  | .load bytes => if bytes.length > maxImage then some .memoryOverflow else none
  | .frame => none
  | .keyEdge _ => none
  | .keyPoll _ => none
  | .reset => none
  | .drive _ _ => none

end Sys2Proof.Machine
end

