-- ==== Sys2Proof/Machine/Step.lean ====
section
/-! DEFINITION. One step of the machine: one host operation (60_exceptions.md R300 to R302). -/

namespace Sys2Proof.Machine

/-- The next operation of the host's schedule, run as one atomic step (R301); with nothing scheduled, a TICK with the
inputs as they stand. DESIGN CHOICE (log 2): R302 leaves the order free, and env.ops of an arbitrary state is any order. -/
def step (s : State) : Host.Outcome State Fault Refusal :=
  match s.env.ops with
  | [] => tick s
  | op :: ops => runOp op (s.setEnv { s.env with ops := ops })

/-- Where the next TICK can fetch: PC if it is in range (30_encoding.md R81), else the entry point 0x200. -/
def fetchablePc (pc : Word) : Word := if pcInRange pc then pc else 0x0200

/-- s with a table word stored where the next step fetches, big-endian (20_memory.md R55). What would keep the next step
from fetching is removed too: scheduled operations, a latched error, a stall, an out-of-range PC (log 9). -/
def State.withFetchWord (s : State) (nbits w : Nat) : State :=
  let word : Word := BitVec.ofNat 16 (w % 2 ^ nbits)
  let t := ((s.setPc (fetchablePc s.pc)).setFault none).setEnv { s.env with ops := [] }
  let u := if t.stalled then t.setWaitActive false else t
  (u.writeByte u.pc.toNat (hiByte word)).writeByte (u.pc.toNat + 1) (loByte word)

end Sys2Proof.Machine
end

