-- ==== Sys2Proof/Safety.lean ====
section
/-! DEFINITION. The terms statements use: the pieces of state and what it is to keep them, the invariant of the machine,
and a safe run. -/

namespace Sys2Proof.Machine

/-- The pieces of state of 10_state.md (R20 to R38), with the parameters and the host's side. -/
inductive Piece where
  | v
  | pc
  | i
  | stack
  | sp
  | dt
  | st
  | mem
  | fb
  | displayChanged
  | soundActive
  | waitActive
  | waitReg
  | prevKeys
  | fault
  | cfg
  | env
deriving DecidableEq, Repr

/-- A piece is the same in two states. Memory is compared through the read of one byte, at every address. -/
def Piece.same (p : Piece) (s t : State) : Prop :=
  match p with
  | .v => ∀ r, t.getV r = s.getV r
  | .pc => t.pc = s.pc
  | .i => t.i = s.i
  | .stack => t.stack = s.stack
  | .sp => t.sp = s.sp
  | .dt => t.dt = s.dt
  | .st => t.st = s.st
  | .mem => ∀ a, t.readByte a = s.readByte a
  | .fb => t.fb = s.fb
  | .displayChanged => t.displayChanged = s.displayChanged
  | .soundActive => t.soundActive = s.soundActive
  | .waitActive => t.waitActive = s.waitActive
  | .waitReg => t.waitReg = s.waitReg
  | .prevKeys => t.prevKeys = s.prevKeys
  | .fault => t.fault = s.fault
  | .cfg => t.cfg = s.cfg
  | .env => t.env = s.env

/-- Every piece but the listed ones is the same in t as in s. -/
def KeepsAllBut (ps : List Piece) (s t : State) : Prop := ∀ p, p ∉ ps → p.same s t

/-- Every V register but the listed ones is the same in t as in s. -/
def KeepsRegsBut (rs : List Nibble) (s t : State) : Prop := ∀ r, r ∉ rs → t.getV r = s.getV r

/-- Every byte of memory outside the listed addresses is the same in t as in s. -/
def KeepsMemBut (as : List Nat) (s t : State) : Prop := ∀ a, a ∉ as → t.readByte a = s.readByte a

/-- The outcome is a next state that satisfies P. -/
def Answers (o : Host.Outcome State Fault Refusal) (P : State → Prop) : Prop := ∃ t, o = .next t ∧ P t

/-- The outcome is error entry (60_exceptions.md R309, R310): the latch takes e, every other piece is as it was in s. -/
def TakesError (o : Host.Outcome State Fault Refusal) (s : State) (e : MachineError) : Prop :=
  Answers o fun t => t.fault = some e ∧ KeepsAllBut [.fault] s t

/-- t is s with b in V[x] and PC past the instruction. -/
def SetsReg (s : State) (x : Nibble) (b : Byte) (t : State) : Prop :=
  t.getV x = b ∧ t.pc = s.pc + 2 ∧ KeepsRegsBut [x] s t ∧ KeepsAllBut [.v, .pc] s t

/-- t is s with the number r in V[x], the flag f in VF, and PC past the instruction; where x is VF itself, VF_ORDER says
which of the two is left (41_alu.md R150). -/
def SetsRegAndFlag (s : State) (x : Nibble) (r : Nat) (f : Bool) (t : State) : Prop :=
  (x ≠ 15#4 → (t.getV x).toNat = r ∧ (t.getV 15#4).toNat = f.toNat) ∧
    (x = 15#4 → (t.getV 15#4).toNat = match s.cfg.vfOrder with
      | .flagLast => f.toNat
      | .resultLast => r) ∧
    t.pc = s.pc + 2 ∧ KeepsRegsBut [x, 15#4] s t ∧ KeepsAllBut [.v, .pc] s t

/-- t is s with the number n in I and PC past the instruction. -/
def SetsIndex (s : State) (n : Nat) (t : State) : Prop :=
  t.i.toNat = n ∧ t.pc = s.pc + 2 ∧ KeepsAllBut [.i, .pc] s t

/-- t is s with PC past the next instruction if c holds, else at it. -/
def SkipsIf (s : State) (c : Prop) (t : State) : Prop :=
  (c → t.pc = s.pc + 4) ∧ (¬ c → t.pc = s.pc + 2) ∧ KeepsAllBut [.pc] s t

/-- All n data bytes at I can be reached: they lie in memory, or addresses wrap (20_memory.md R53). -/
def DataInReach (s : State) (n : Nat) : Prop := s.cfg.memOob = .wrap ∨ n = 0 ∨ s.i.toNat + n ≤ 0x1000

/-- A set bit of the sprite at I, n rows drawn at (V[x], V[y]), lands on pixel (px, py): row r, column c, bit 7 - c
(43_display.md R231, R233). -/
def SpriteCovers (s : State) (x y n : Nibble) (px : Fin 64) (py : Fin 32) : Prop :=
  ∃ r c, r < n.toNat ∧ c < 8 ∧ (s.readByte ((s.i.toNat + r) % 4096)).getLsbD (7 - c) = true ∧
    px.val = ((s.getV x).toNat + c) % 64 ∧ py.val = ((s.getV y).toNat + r) % 32

/-- The V registers an instruction can write (10_state.md R22). -/
def MayWriteV (i : Instr) (r : Nibble) : Prop :=
  match i with
  | .ldImm x _ | .addImm x _ | .ldReg x _ | .orReg x _ | .andReg x _ | .xorReg x _ | .rnd x _ | .ldVxDt x => r = x
  | .addReg x _ | .subReg x _ | .shr x _ | .subnReg x _ | .shl x _ => r = x ∨ r = 15#4
  | .drw _ _ _ => r = 15#4
  | .ldVxMem x => r.toNat ≤ x.toNat
  | .sys _ | .cls | .ret | .jp _ | .call _ | .seImm _ _ | .sneImm _ _ | .seReg _ _ | .sneReg _ _ | .ldI _ | .jpV0 _
  | .skp _ | .sknp _ | .ldVxK _ | .ldDtVx _ | .ldStVx _ | .addIVx _ | .ldFVx _ | .ldBVx _ | .ldMemVx _ => False

/-- The errors an instruction can raise from s (60_exceptions.md R306). SYS raises the BadOperation that decode raises for its
word (log 10). -/
def MayRaise (i : Instr) (s : State) (e : MachineError) : Prop :=
  match i with
  | .ret => e = .emptyStack
  | .call _ => e = .fullStack
  | .skp x | .sknp x => e = .keyIndexOutOfRange (s.getV x)
  | .ldBVx _ | .ldMemVx _ | .ldVxMem _ | .drw _ _ _ => e = .memoryAccessOutOfBounds (max s.i.toNat 0x1000)
  | .sys nnn => e = .badOperation (encode (.sys nnn)).1 (encode (.sys nnn)).2
  | .cls | .jp _ | .seImm _ _ | .sneImm _ _ | .seReg _ _ | .ldImm _ _ | .addImm _ _ | .ldReg _ _ | .orReg _ _ | .andReg _ _
  | .xorReg _ _ | .addReg _ _ | .subReg _ _ | .shr _ _ | .subnReg _ _ | .shl _ _ | .sneReg _ _ | .ldI _ | .jpV0 _ | .rnd _ _
  | .ldVxDt _ | .ldVxK _ | .ldDtVx _ | .ldStVx _ | .addIVx _ | .ldFVx _ => False

/-- How far address a lies past I, addresses counted modulo 4096 (20_memory.md R53). -/
def State.offsetOf (s : State) (a : Nat) : Nat := (a + 4096 - s.i.toNat % 4096) % 4096

/-- What address a holds once n bytes are stored from I on, the k-th of them b k, and the rest of memory is as in s. -/
def State.byteAfterStore (s : State) (n : Nat) (b : Nat → Byte) (a : Nat) : Byte :=
  if s.offsetOf a < n then b (s.offsetOf a) else s.readByte a

/-- Instructions executed one after the other, stopping at the first that does not answer a next state. -/
def runInstrs : List Instr → State → Host.Outcome State Fault Refusal
  | [], s => .next s
  | i :: is, s =>
    match exec i s with
    | .next t => runInstrs is t
    | .fault e => .fault e
    | .refused r => .refused r

/-- Host operations performed one after the other, each on the state the one before it left (60_exceptions.md R301), stopping
at the first that does not answer a next state. -/
def performOps : List HostOp → State → Host.Outcome State Fault Refusal
  | [], s => .next s
  | op :: ops, s =>
    match runOp op s with
    | .next t => performOps ops t
    | .fault e => .fault e
    | .refused r => .refused r

/-- The same outcome with f applied to its next state. -/
def mapNext (f : State → State) : Host.Outcome State Fault Refusal → Host.Outcome State Fault Refusal
  | .next t => .next (f t)
  | .fault e => .fault e
  | .refused r => .refused r

/-- s with another schedule. -/
def State.withOps (s : State) (ops : List HostOp) : State := s.setEnv { s.env with ops := ops }

/-- s with another keys input. -/
def State.withKeys (s : State) (keys : Word) : State := s.setEnv { s.env with keys := keys }

/-- s with another shift quirk input. -/
def State.withShiftQuirk (s : State) (b : Bool) : State := s.setEnv { s.env with shiftReadsVy := b }

/-- s with another index quirk input. -/
def State.withIndexQuirk (s : State) (b : Bool) : State := s.setEnv { s.env with indexIncrements := b }

/-- s of a machine with another VF_ORDER. -/
def State.withVfOrder (s : State) (o : VfOrder) : State := { s with cfg := { s.cfg with vfOrder := o } }

/-- The memory cells are in canonical form. -/
abbrev State.memOk (s : State) : Prop := Memory.wf s.cfg.font s.mem

/-- The invariant of the machine: canonical memory, SP legal (10_state.md R29), PC at most 0x10FE (30_encoding.md R96), and
every stack entry at most 0x1000 (40_control_flow.md R110, R113). -/
structure State.Inv (s : State) : Prop where
  memOk : s.memOk
  spLegal : s.sp.toNat ≤ 16
  pcBounded : s.pc.toNat ≤ 0x10FE
  stackBounded : ∀ k (h : k < 16), (s.stack[k]'h).toNat ≤ 0x1000

/-- No error is latched (10_state.md R38). -/
def State.running (s : State) : Prop := s.fault = none

/-- A safe run of n steps: every step answers a next state and no error is latched on the way (60_exceptions.md R312). -/
def safeFor : Nat → State → Prop
  | 0, s => s.running
  | n + 1, s => s.running ∧ ∃ t, step s = .next t ∧ safeFor n t

end Sys2Proof.Machine
end

