-- ==== Sys2Proof/Certificates/Slice0/Obligations.lean ====
section
/-! DEFINITION. The statements for the provers. Each docstring names the rules it formalises. Terms: Sys2Proof/Safety.lean. -/

open Sys2Proof Sys2Proof.Machine

/-! ## Encoding -/

/-- 30_encoding.md R88, R90: decoding the encoding of a well-formed instruction gives it back, SYS under SYS_POLICY = nop. -/
def Obligations.DecodeOfEncodeIsIdentity : Prop :=
  ∀ (p : SysPolicy) (i : Instr), i.wf = true → (p = .nop ∨ ∀ nnn, i ≠ .sys nnn) →
    decode p (encode i).1 (encode i).2 = .instr i

/-- R88, R90, R93: a word that decodes to an instruction is that instruction's encoding, so no two words share a meaning, and
the instruction is well-formed. -/
def Obligations.DecodedWordsEncodeBack : Prop :=
  ∀ (p : SysPolicy) (b1 b2 : Byte) (i : Instr), decode p b1 b2 = .instr i → i.wf = true ∧ encode i = (b1, b2)

/-- R91, R92, R94 (which words group 0 adds is the parameter SYS_POLICY, decision D2; both its values are covered): which
words raise BadOperation, with w = b1 * 256 + b2; the error holds the two bytes, it is taken before any state changes, and
SYS_POLICY matters in group 0 only. That a wait holds no TICK under KEY_WAIT_POLICY = advance is decision D14 (log 1). -/
def Obligations.IllegalWordsRaiseBadOperation : Prop :=
  (∀ b1 b2 : Byte,
    let w := b1.toNat * 256 + b2.toNat
    (decode .fault b1 b2 = .badOperation b1 b2 ↔
      (w / 4096 = 0 ∧ w ≠ 0x00E0 ∧ w ≠ 0x00EE) ∨ (w / 4096 = 5 ∧ w % 16 ≠ 0) ∨
      (w / 4096 = 8 ∧ 7 < w % 16 ∧ w % 16 ≠ 14) ∨ (w / 4096 = 9 ∧ w % 16 ≠ 0) ∨
      (w / 4096 = 14 ∧ w % 256 ∉ [0x9E, 0xA1]) ∨
      (w / 4096 = 15 ∧ w % 256 ∉ [0x07, 0x0A, 0x15, 0x18, 0x1E, 0x29, 0x33, 0x55, 0x65])) ∧
    (w / 4096 ≠ 0 → decode .nop b1 b2 = decode .fault b1 b2) ∧
    (w / 4096 = 0 → decode .nop b1 b2 ≠ .badOperation b1 b2)) ∧
  (∀ (p : SysPolicy) (b1 b2 c1 c2 : Byte), decode p b1 b2 = .badOperation c1 c2 → c1 = b1 ∧ c2 = b2) ∧
  ∀ (s : State) (b1 b2 : Byte), s.fault = none → (s.cfg.keyWait = .advance ∨ s.waitActive = false) →
    s.pc.toNat ≤ 0xFFE →
    b1 = s.readByte s.pc.toNat → b2 = s.readByte (s.pc.toNat + 1) →
    decode s.cfg.sysPolicy b1 b2 = .badOperation b1 b2 → TakesError (tick s) s (.badOperation b1 b2)

/-- R89, R90, one word of every family, written out from the opcode map: `00 E0`, `6A 0A` and `7A 05` are the source's own.
-/
def Obligations.SampleWordsDecode : Prop :=
  ∀ p : SysPolicy,
    decode p 0x00 0xE0 = .instr .cls ∧ decode p 0x6A 0x0A = .instr (.ldImm 0xA 0x0A) ∧
    decode p 0x7A 0x05 = .instr (.addImm 0xA 0x05) ∧ decode p 0x22 0x0A = .instr (.call 0x20A) ∧
    decode p 0x81 0x24 = .instr (.addReg 1 2) ∧ decode p 0xA2 0xF0 = .instr (.ldI 0x2F0) ∧
    decode p 0xD1 0x2F = .instr (.drw 1 2 15) ∧ decode p 0xE5 0xA1 = .instr (.sknp 5) ∧
    decode p 0xF4 0x29 = .instr (.ldFVx 4) ∧ decode p 0xF3 0x0A = .instr (.ldVxK 3)

/-! ## Registers and ALU -/

/-- 41_alu.md R151, R153. -/
def Obligations.LoadsWriteOneRegister : Prop :=
  ∀ (p : SysPolicy) (x y : Nibble) (kk : Byte) (s : State),
    decode p (0x6#4 ++ x) kk = .instr (.ldImm x kk) ∧ decode p (0x8#4 ++ x) (y ++ 0x0#4) = .instr (.ldReg x y) ∧
    Answers (exec (.ldImm x kk) s) (SetsReg s x kk) ∧ Answers (exec (.ldReg x y) s) (SetsReg s x (s.getV y))

/-- R152: the sum wraps modulo 256. That VF is unchanged unless x = 15 is the spec's own decision D6 (log 13). -/
def Obligations.AddImmediateWrapsWithoutFlag : Prop :=
  ∀ (p : SysPolicy) (x : Nibble) (kk : Byte) (s : State),
    decode p (0x7#4 ++ x) kk = .instr (.addImm x kk) ∧
    Answers (exec (.addImm x kk) s) fun t =>
      (t.getV x).toNat = ((s.getV x).toNat + kk.toNat) % 256 ∧ t.pc = s.pc + 2 ∧
      KeepsRegsBut [x] s t ∧ KeepsAllBut [.v, .pc] s t

/-- R154, R155, R156: bitwise. That VF is unchanged unless x = 15 is the spec's own decision D5 (log 13). -/
def Obligations.LogicOperationsLeaveVf : Prop :=
  ∀ (p : SysPolicy) (x y : Nibble) (s : State),
    decode p (0x8#4 ++ x) (y ++ 0x1#4) = .instr (.orReg x y) ∧
    decode p (0x8#4 ++ x) (y ++ 0x2#4) = .instr (.andReg x y) ∧
    decode p (0x8#4 ++ x) (y ++ 0x3#4) = .instr (.xorReg x y) ∧
    Answers (exec (.orReg x y) s) (SetsReg s x (s.getV x ||| s.getV y)) ∧
    Answers (exec (.andReg x y) s) (SetsReg s x (s.getV x &&& s.getV y)) ∧
    Answers (exec (.xorReg x y) s) (SetsReg s x (s.getV x ^^^ s.getV y))

/-- R157, R158, R160: the exact sum or difference narrowed to 8 bits, VF the carry or the not-borrow. What VF holds where x =
15 is R150's VF_ORDER, the spec's parameter of decision D4 (log 1), both its values covered. -/
def Obligations.AddAndSubtractSetVf : Prop :=
  ∀ (p : SysPolicy) (x y : Nibble) (s : State),
    let a := (s.getV x).toNat
    let b := (s.getV y).toNat
    decode p (0x8#4 ++ x) (y ++ 0x4#4) = .instr (.addReg x y) ∧
    decode p (0x8#4 ++ x) (y ++ 0x5#4) = .instr (.subReg x y) ∧
    decode p (0x8#4 ++ x) (y ++ 0x7#4) = .instr (.subnReg x y) ∧
    Answers (exec (.addReg x y) s) (SetsRegAndFlag s x ((a + b) % 256) (decide (a + b ≥ 256))) ∧
    Answers (exec (.subReg x y) s) (SetsRegAndFlag s x ((256 + a - b) % 256) (decide (a ≥ b))) ∧
    Answers (exec (.subnReg x y) s) (SetsRegAndFlag s x ((256 + b - a) % 256) (decide (b ≥ a)))

/-- R159, R161: the result is the value shifted by one and VF the bit shifted out. That the value is Vy under the quirk and
Vx without it (R164) is the spec's own decision D7 (log 13). What VF holds where x = 15 is R150's VF_ORDER, the spec's
parameter of decision D4 (log 1), both its values covered. -/
def Obligations.ShiftsSetVf : Prop :=
  ∀ (p : SysPolicy) (x y : Nibble) (s : State),
    let old := if s.env.shiftReadsVy = true then (s.getV y).toNat else (s.getV x).toNat
    decode p (0x8#4 ++ x) (y ++ 0x6#4) = .instr (.shr x y) ∧ decode p (0x8#4 ++ x) (y ++ 0xE#4) = .instr (.shl x y) ∧
    Answers (exec (.shr x y) s) (SetsRegAndFlag s x (old / 2) (decide (old % 2 = 1))) ∧
    Answers (exec (.shl x y) s) (SetsRegAndFlag s x (old * 2 % 256) (decide (old ≥ 128)))

/-- R150: each of the five flag-writing operations computes, from the state before it, the result r and the flag f of its
rule (the numbers of AddAndSubtractSetVf and ShiftsSetVf). Under flag_last VF is left with f; the two orders leave the same
registers unless x = 15, where result_last leaves r in VF. They differ in nothing else. VF_ORDER is the spec's parameter of
decision D4 (log 1), both its values covered; the source of a shift is decision D7 (log 13). -/
def Obligations.VfOrderMattersOnlyAtVf : Prop :=
  ∀ (x y : Nibble) (s : State) (i : Instr) (r : Nat) (f : Bool),
    let a := (s.getV x).toNat
    let b := (s.getV y).toNat
    let old := if s.env.shiftReadsVy = true then b else a
    (i, r, f) ∈ [(Instr.addReg x y, (a + b) % 256, decide (a + b ≥ 256)),
      (.subReg x y, (256 + a - b) % 256, decide (a ≥ b)), (.subnReg x y, (256 + b - a) % 256, decide (b ≥ a)),
      (.shr x y, old / 2, decide (old % 2 = 1)), (.shl x y, old * 2 % 256, decide (old ≥ 128))] →
    ∃ t u : State,
      exec i (s.withVfOrder .flagLast) = .next t ∧ exec i (s.withVfOrder .resultLast) = .next u ∧
      (t.getV 15#4).toNat = f.toNat ∧
      (x ≠ 15#4 → (t.getV x).toNat = r ∧ ∀ k, u.getV k = t.getV k) ∧
      (x = 15#4 → (u.getV 15#4).toNat = r ∧ ∀ k, k ≠ 15#4 → u.getV k = t.getV k) ∧ KeepsAllBut [.v, .cfg] t u

/-- R162: rand AND kk, every result bit a bit of the mask, one byte drawn and nothing else touched. The byte is the next of
the known ones, or else a free value: that clause is the model's own (log 5) and holds whatever the byte is. -/
def Obligations.RandomByteIsMasked : Prop :=
  ∀ (p : SysPolicy) (x : Nibble) (kk : Byte) (s : State),
    decode p (0xC#4 ++ x) kk = .instr (.rnd x kk) ∧
    Answers (exec (.rnd x kk) s) fun t =>
      (∃ rand : Byte, t.getV x = rand &&& kk ∧
        ((∃ bs, s.env.rands = rand :: bs ∧ t.env = { s.env with rands := bs }) ∨
          (s.env.rands = [] ∧ t.env = { s.env with draws := s.env.draws + 1 }))) ∧
      t.getV x &&& ~~~kk = 0#8 ∧ t.pc = s.pc + 2 ∧ KeepsRegsBut [x] s t ∧ KeepsAllBut [.v, .pc, .env] s t

/-! ## Index and memory -/

/-- 42_index_memory.md R200, R202: no flag is written, and the glyph address ignores the high nibble. -/
def Obligations.IndexLoadsSetI : Prop :=
  ∀ (p : SysPolicy) (x : Nibble) (nnn : Addr) (s : State),
    decode p (0xA#4 ++ nnn.extractLsb' 8 4) (nnn.extractLsb' 0 8) = .instr (.ldI nnn) ∧
    decode p (0xF#4 ++ x) 0x29#8 = .instr (.ldFVx x) ∧
    Answers (exec (.ldI nnn) s) (SetsIndex s nnn.toNat) ∧
    Answers (exec (.ldFVx x) s) (SetsIndex s ((s.getV x).toNat % 16 * 5))

/-- R201: I takes the sum modulo 2^16 and no flag is written; both are the spec's own decision D9 (log 13). -/
def Obligations.IndexAddWrapsAtSixteenBits : Prop :=
  ∀ (p : SysPolicy) (x : Nibble) (s : State),
    decode p (0xF#4 ++ x) 0x1E#8 = .instr (.addIVx x) ∧
    Answers (exec (.addIVx x) s) (SetsIndex s ((s.i.toNat + (s.getV x).toNat) % 65536))

/-- R203: the three digits at I, I + 1, I + 2; the addresses are those Resolve gives; the error of the lowest out-of-range
one otherwise. That an address past 0xFFF wraps or raises the error is the spec's parameter of decision D12 (log 1), both its
values covered, and that the error comes before every write its own decision D22 (log 6). That a stored byte reads back rests
on the canonical form of memory. -/
def Obligations.BcdDigitsAreStored : Prop :=
  ∀ (p : SysPolicy) (x : Nibble) (s : State),
    let v := (s.getV x).toNat
    let a := s.i.toNat
    decode p (0xF#4 ++ x) 0x33#8 = .instr (.ldBVx x) ∧
    (DataInReach s 3 → ∃ as t, resolveRange s.cfg.memOob a 3 = .ok as ∧
      as = [a % 4096, (a + 1) % 4096, (a + 2) % 4096] ∧ exec (.ldBVx x) s = .next t ∧
      (s.memOk → (t.readByte (a % 4096)).toNat = v / 100 ∧ (t.readByte ((a + 1) % 4096)).toNat = v / 10 % 10 ∧
        (t.readByte ((a + 2) % 4096)).toNat = v % 10) ∧
      KeepsMemBut as s t ∧ t.pc = s.pc + 2 ∧ KeepsAllBut [.mem, .pc] s t) ∧
    (¬ DataInReach s 3 → TakesError (exec (.ldBVx x) s) s (.memoryAccessOutOfBounds (max a 0x1000)))

/-- R204: V0..Vx inclusive to I... That I moves past them, by x + 1, under the index quirk and not without it is the spec's
own decision D8 (log 13); that an address past 0xFFF wraps or raises the error is its parameter of decision D12 (log 1). -/
def Obligations.RegistersAreStored : Prop :=
  ∀ (p : SysPolicy) (x : Nibble) (s : State),
    let a := s.i.toNat
    let n := x.toNat + 1
    decode p (0xF#4 ++ x) 0x55#8 = .instr (.ldMemVx x) ∧
    (DataInReach s n → ∃ as t, resolveRange s.cfg.memOob a n = .ok as ∧
      as = (List.range n).map (fun k => (a + k) % 4096) ∧ exec (.ldMemVx x) s = .next t ∧
      (s.memOk → ∀ r : Nibble, r.toNat ≤ x.toNat → t.readByte ((a + r.toNat) % 4096) = s.getV r) ∧
      KeepsMemBut as s t ∧ t.i.toNat = (if s.env.indexIncrements = true then (a + n) % 65536 else a) ∧
      t.pc = s.pc + 2 ∧ KeepsAllBut [.mem, .i, .pc] s t) ∧
    (¬ DataInReach s n → TakesError (exec (.ldMemVx x) s) s (.memoryAccessOutOfBounds (max a 0x1000)))

/-- R205: V0..Vx inclusive from I.., no other register. What I does is the spec's own decision D8 (log 13); that an address
past 0xFFF wraps or raises the error is its parameter of decision D12 (log 1). -/
def Obligations.RegistersAreLoaded : Prop :=
  ∀ (p : SysPolicy) (x : Nibble) (s : State),
    let a := s.i.toNat
    let n := x.toNat + 1
    decode p (0xF#4 ++ x) 0x65#8 = .instr (.ldVxMem x) ∧
    (DataInReach s n → Answers (exec (.ldVxMem x) s) fun t =>
      (∀ r : Nibble, r.toNat ≤ x.toNat → t.getV r = s.readByte ((a + r.toNat) % 4096)) ∧
      (∀ r : Nibble, x.toNat < r.toNat → t.getV r = s.getV r) ∧
      t.i.toNat = (if s.env.indexIncrements = true then (a + n) % 65536 else a) ∧
      t.pc = s.pc + 2 ∧ KeepsAllBut [.v, .i, .pc] s t) ∧
    (¬ DataInReach s n → TakesError (exec (.ldVxMem x) s) s (.memoryAccessOutOfBounds (max a 0x1000)))

/-- 20_memory.md R64, 70_reset_and_hazards.md R365, which the spec derives from its other rules: what LD [I], Vx and LD B, Vx
store is what a later TICK fetches, at whatever PC the two bytes lie: both stored, one of them, or neither. The PC of the
fetch is free; the very next TICK is the case p = PC + 2. That addresses past 0xFFF wrap or fault is the parameter of
decision D12 (log 1). -/
def Obligations.StoredCodeIsFetched : Prop :=
  ∀ (x : Nibble) (p : Word) (s : State), s.memOk → p.toNat ≤ 0xFFE →
    let reg (k : Nat) : Byte := s.getV (BitVec.ofNat 4 k)
    let v := (s.getV x).toNat
    let digit (k : Nat) : Byte := BitVec.ofNat 8 (if k = 0 then v / 100 else if k = 1 then v / 10 % 10 else v % 10)
    (DataInReach s (x.toNat + 1) → Answers (exec (.ldMemVx x) s) fun t => (t.setPc p).fetch =
      (s.byteAfterStore (x.toNat + 1) reg p.toNat, s.byteAfterStore (x.toNat + 1) reg (p.toNat + 1))) ∧
    (DataInReach s 3 → Answers (exec (.ldBVx x) s) fun t => (t.setPc p).fetch =
      (s.byteAfterStore 3 digit p.toNat, s.byteAfterStore 3 digit (p.toNat + 1)))

/-! ## Control flow -/

/-- 40_control_flow.md R112: the target is taken as it is. -/
def Obligations.JumpSetsThePc : Prop :=
  ∀ (p : SysPolicy) (nnn : Addr) (s : State),
    decode p (0x1#4 ++ nnn.extractLsb' 8 4) (nnn.extractLsb' 0 8) = .instr (.jp nnn) ∧
    Answers (exec (.jp nnn) s) (fun t => t.pc.toNat = nnn.toNat ∧ KeepsAllBut [.pc] s t)

/-- R114: the 16-bit sum is taken with no 12-bit mask, and the register is V0; both are the spec's own decision D10 (log 13).
-/
def Obligations.JumpFromV0IsNotMasked : Prop :=
  ∀ (p : SysPolicy) (nnn : Addr) (s : State),
    decode p (0xB#4 ++ nnn.extractLsb' 8 4) (nnn.extractLsb' 0 8) = .instr (.jpV0 nnn) ∧
    Answers (exec (.jpV0 nnn) s) (fun t => t.pc.toNat = nnn.toNat + (s.getV 0#4).toNat ∧ KeepsAllBut [.pc] s t)

/-- R115, R116, R117, R118. -/
def Obligations.ConditionalSkipsCompareRegisters : Prop :=
  ∀ (p : SysPolicy) (x y : Nibble) (kk : Byte) (s : State),
    decode p (0x3#4 ++ x) kk = .instr (.seImm x kk) ∧ decode p (0x4#4 ++ x) kk = .instr (.sneImm x kk) ∧
    decode p (0x5#4 ++ x) (y ++ 0x0#4) = .instr (.seReg x y) ∧ decode p (0x9#4 ++ x) (y ++ 0x0#4) = .instr (.sneReg x y) ∧
    Answers (exec (.seImm x kk) s) (SkipsIf s (s.getV x = kk)) ∧
    Answers (exec (.sneImm x kk) s) (SkipsIf s (s.getV x ≠ kk)) ∧
    Answers (exec (.seReg x y) s) (SkipsIf s (s.getV x = s.getV y)) ∧
    Answers (exec (.sneReg x y) s) (SkipsIf s (s.getV x ≠ s.getV y))

/-- R119, R120: the bit of this TICK's keys that Vx names. That a value above 15 raises the error, one the spec adds (R307),
is KEY_INDEX_POLICY = fault (R121), a value of the spec's parameter of decision D13 (log 1); its other value is
KeyIndexWrapsUnderMod16. -/
def Obligations.KeySkipsTestTheKeysInput : Prop :=
  ∀ (p : SysPolicy) (x : Nibble) (s : State),
    let v := (s.getV x).toNat
    decode p (0xE#4 ++ x) 0x9E#8 = .instr (.skp x) ∧ decode p (0xE#4 ++ x) 0xA1#8 = .instr (.sknp x) ∧
    (v ≤ 15 →
      Answers (exec (.skp x) s) (SkipsIf s (s.env.keys.getLsbD v = true)) ∧
      Answers (exec (.sknp x) s) (SkipsIf s (s.env.keys.getLsbD v = false))) ∧
    (15 < v → s.cfg.keyIndex = .fault →
      TakesError (exec (.skp x) s) s (.keyIndexOutOfRange (s.getV x)) ∧
      TakesError (exec (.sknp x) s) s (.keyIndexOutOfRange (s.getV x)))

/-- R121, KEY_INDEX_POLICY = mod16 (decision D13): the key is Vx modulo 16, and neither skip can fail. -/
def Obligations.KeyIndexWrapsUnderMod16 : Prop :=
  ∀ (x : Nibble) (s : State), s.cfg.keyIndex = .mod16 →
    Answers (exec (.skp x) s) (SkipsIf s (s.env.keys.getLsbD ((s.getV x).toNat % 16) = true)) ∧
    Answers (exec (.sknp x) s) (SkipsIf s (s.env.keys.getLsbD ((s.getV x).toNat % 16) = false))

/-- R113: FullStack at SP = 16, else the target is taken and SP counts up. That S[SP] takes PC + 2 is the spec's own decision
D11 (log 13). -/
def Obligations.CallPushesTheReturnAddress : Prop :=
  ∀ (p : SysPolicy) (nnn : Addr) (s : State),
    decode p (0x2#4 ++ nnn.extractLsb' 8 4) (nnn.extractLsb' 0 8) = .instr (.call nnn) ∧
    (s.sp.toNat < 16 → Answers (exec (.call nnn) s) fun t =>
      t.stackAt s.sp.toNat = some (s.pc + 2) ∧ (∀ k, k ≠ s.sp.toNat → t.stackAt k = s.stackAt k) ∧
      t.sp.toNat = s.sp.toNat + 1 ∧ t.pc.toNat = nnn.toNat ∧ KeepsAllBut [.stack, .sp, .pc] s t) ∧
    (s.sp.toNat = 16 → TakesError (exec (.call nnn) s) s .fullStack)

/-- R110: EmptyStack at SP = 0, else SP counts down, PC is S[SP] and the entry is not cleared (decision D11, log 13). -/
def Obligations.ReturnPopsTheStack : Prop :=
  ∀ (p : SysPolicy) (s : State),
    decode p 0x00#8 0xEE#8 = .instr .ret ∧
    (1 ≤ s.sp.toNat → s.sp.toNat ≤ 16 → Answers (exec .ret s) fun t =>
      t.sp.toNat = s.sp.toNat - 1 ∧ s.stackAt (s.sp.toNat - 1) = some t.pc ∧ KeepsAllBut [.sp, .pc] s t) ∧
    (s.sp.toNat = 0 → TakesError (exec .ret s) s .emptyStack)

/-- The model's choice (log 7), no rule of the spec: CALL and RET stop by name where SP holds a value R29 does not allow. -/
def Obligations.IllegalStackPointerStops : Prop :=
  ∀ (nnn : Addr) (s : State), 16 < s.sp.toNat →
    exec (.call nnn) s = .fault .illegalStackPointer ∧ exec .ret s = .fault .illegalStackPointer

/-- R123, which the spec derives from R110 and R113: after n nested CALLs and then k of n RETs, PC is after the CALL that the
k-th RET matches, and SP counts the calls still open. -/
def Obligations.NestedCallsUnwindInOrder : Prop :=
  ∀ (targets : List Addr) (k : Nat) (s : State), s.sp.toNat + targets.length ≤ 16 → 1 ≤ k → k ≤ targets.length →
    Answers (runInstrs (targets.map Instr.call ++ List.replicate k Instr.ret) s) fun t =>
      t.sp.toNat = s.sp.toNat + (targets.length - k) ∧
      (k = targets.length → t.pc = s.pc + 2) ∧
      (∀ h : targets.length - k - 1 < targets.length, k < targets.length →
        t.pc.toNat = (targets[targets.length - k - 1]'h).toNat + 2) ∧
      KeepsAllBut [.stack, .sp, .pc] s t

/-- R111, R92 (decision D2, both values of SYS_POLICY): SYS changes nothing but PC under nop; under fault its word raises
BadOperation at decode. -/
def Obligations.SysExecutesOnlyUnderNop : Prop :=
  ∀ (b1 b2 : Byte) (nnn : Addr) (s : State), b1 = 0x0#4 ++ nnn.extractLsb' 8 4 → b2 = nnn.extractLsb' 0 8 →
    nnn ≠ 0x0E0#12 → nnn ≠ 0x0EE#12 →
    decode .nop b1 b2 = .instr (.sys nnn) ∧ decode .fault b1 b2 = .badOperation b1 b2 ∧
    (s.cfg.sysPolicy = .nop →
      Answers (exec (.sys nnn) s) fun t => t.pc = s.pc + 2 ∧ KeepsAllBut [.pc] s t)

/-- 30_encoding.md R95 and what the spec derives from it in R96: from a PC that was fetched at, PC never wraps, only the four
transfers leave the line, only the six skips pass a word, and a PC left in place is an error or a jump. -/
def Obligations.PcMovesByTheDirective : Prop :=
  ∀ (i : Instr) (s t : State), s.Inv → s.pc.toNat ≤ 0xFFE → exec i s = .next t →
    t.pc.toNat ≤ 0x10FE ∧
    ((i ≠ .ret ∧ (∀ nnn, i ≠ .jp nnn ∧ i ≠ .call nnn ∧ i ≠ .jpV0 nnn)) →
      (t.pc.toNat = s.pc.toNat ∧ t.fault ≠ none) ∨ t.pc.toNat = s.pc.toNat + 2 ∨
      (t.pc.toNat = s.pc.toNat + 4 ∧
        ((∃ x kk, i = .seImm x kk ∨ i = .sneImm x kk) ∨ (∃ x y, i = .seReg x y ∨ i = .sneReg x y) ∨
          ∃ x, i = .skp x ∨ i = .sknp x)))

/-! ## Display -/

/-- 43_display.md R232; whether display_changed is set is the parameter of decision D16, both its values covered. -/
def Obligations.ClearScreenClearsEveryPixel : Prop :=
  ∀ (p : SysPolicy) (s : State),
    decode p 0x00#8 0xE0#8 = .instr .cls ∧
    Answers (exec .cls s) fun t =>
      (∀ k (h : k < 256), t.fb[k] = 0x00#8) ∧
      (s.cfg.clsSetsDisplayChanged = true → t.displayChanged = true) ∧
      (s.cfg.clsSetsDisplayChanged = false → t.displayChanged = s.displayChanged) ∧
      t.pc = s.pc + 2 ∧ KeepsAllBut [.fb, .displayChanged, .pc] s t

/-- R233, R234, R235: exactly the covered pixels are XORed, VF is the collision, display_changed is set; the error of the
lowest out-of-range address otherwise. The bit order of rows and bytes and the case n = 0 are the spec's own decisions D17
and D18 (log 13); that an address past 0xFFF wraps or raises the error is its parameter of decision D12 (log 1). -/
def Obligations.DrawXorsTheCoveredPixels : Prop :=
  ∀ (p : SysPolicy) (x y n : Nibble) (s : State),
    decode p (0xD#4 ++ x) (y ++ n) = .instr (.drw x y n) ∧
    (DataInReach s n.toNat → Answers (exec (.drw x y n) s) fun t =>
      (∀ px py, SpriteCovers s x y n px py → pix t.fb px py = !pix s.fb px py) ∧
      (∀ px py, ¬ SpriteCovers s x y n px py → pix t.fb px py = pix s.fb px py) ∧
      ((∃ px py, SpriteCovers s x y n px py ∧ pix s.fb px py = true) → t.getV 15#4 = 0x01#8) ∧
      ((¬ ∃ px py, SpriteCovers s x y n px py ∧ pix s.fb px py = true) → t.getV 15#4 = 0x00#8) ∧
      t.displayChanged = true ∧ t.pc = s.pc + 2 ∧ KeepsRegsBut [15#4] s t ∧
      KeepsAllBut [.v, .fb, .displayChanged, .pc] s t) ∧
    (¬ DataInReach s n.toNat → TakesError (exec (.drw x y n) s) s (.memoryAccessOutOfBounds (max s.i.toNat 0x1000)))

/-- R236, which the spec derives from R233 and R234: the same draw twice leaves the framebuffer as it began, and the second
reports a collision exactly when a covered pixel was clear before the first. The state u between them differs from the
first's end in nothing the draw reads. -/
def Obligations.DrawTwiceRestoresTheScreen : Prop :=
  ∀ (x y n : Nibble) (s t u : State), DataInReach s n.toNat → exec (.drw x y n) s = .next t →
    u.fb = t.fb → u.getV x = s.getV x → u.getV y = s.getV y → u.i = s.i → u.cfg = s.cfg →
    (∀ a, u.readByte a = s.readByte a) →
    Answers (exec (.drw x y n) u) fun w =>
      w.fb = s.fb ∧ (w.getV 15#4 = 0x01#8 ↔ ∃ px py, SpriteCovers s x y n px py ∧ pix s.fb px py = false)

/-! ## Timers and key wait -/

/-- 44_timers_keypad.md R260, R261. -/
def Obligations.DelayTimerIsReadAndSet : Prop :=
  ∀ (p : SysPolicy) (x : Nibble) (s : State),
    decode p (0xF#4 ++ x) 0x07#8 = .instr (.ldVxDt x) ∧ decode p (0xF#4 ++ x) 0x15#8 = .instr (.ldDtVx x) ∧
    Answers (exec (.ldVxDt x) s) (SetsReg s x s.dt) ∧
    Answers (exec (.ldDtVx x) s) (fun t => t.dt = s.getV x ∧ t.pc = s.pc + 2 ∧ KeepsAllBut [.dt, .pc] s t)

/-- R262: ST takes Vx. That sound_active is not touched is the spec's own decision D23 (log 13). -/
def Obligations.SoundTimerIsSetSilently : Prop :=
  ∀ (p : SysPolicy) (x : Nibble) (s : State),
    decode p (0xF#4 ++ x) 0x18#8 = .instr (.ldStVx x) ∧
    Answers (exec (.ldStVx x) s) (fun t => t.st = s.getV x ∧ t.pc = s.pc + 2 ∧ t.soundActive = s.soundActive ∧
      KeepsAllBut [.st, .pc] s t)

/-- R263: the latch is set and no V register is written. That an armed latch takes the new target is the spec's own decision
D15 (R266, log 13). -/
def Obligations.KeyWaitArmsTheLatch : Prop :=
  ∀ (p : SysPolicy) (x : Nibble) (s : State),
    decode p (0xF#4 ++ x) 0x0A#8 = .instr (.ldVxK x) ∧
    Answers (exec (.ldVxK x) s) fun t =>
      t.waitActive = true ∧ t.waitReg = x ∧ t.pc = s.pc + 2 ∧ KeepsAllBut [.waitActive, .waitReg, .pc] s t

/-- R265 (KEY_WAIT_POLICY = hold, the parameter of decision D14): under hold a TICK that finds the latch set changes nothing;
once KEY_EDGE has cleared it PC is where it was and the next TICK fetches there; FRAME still counts the timers down. -/
def Obligations.HoldStallsTheTick : Prop :=
  ∀ (s : State) (edge : Word), s.fault = none → s.cfg.keyWait = .hold → s.waitActive = true →
    tick s = .next s ∧
    (edge ≠ 0#16 → (keyEdge edge s).waitActive = false ∧ (keyEdge edge s).pc = s.pc ∧
      (s.pc.toNat ≤ 0xFFE → tick (keyEdge edge s) = runFetched (keyEdge edge s))) ∧
    (frameStep s).dt.toNat = s.dt.toNat - 1 ∧ (frameStep s).st.toNat = s.st.toNat - 1 ∧ tick (frameStep s) = .next (frameStep s)

/-- R264 (KEY_WAIT_POLICY = advance, the default of the parameter of decision D14, log 1): under advance a TICK ignores
wait_active. With a wait pending as without one it fetches and executes at PC, or raises the PC error there, and another
value of wait_active before the TICK leaves everything but wait_active as it would be after it. -/
def Obligations.AdvanceIgnoresTheWait : Prop :=
  ∀ s : State, s.cfg.keyWait = .advance →
    (s.fault = none → s.pc.toNat ≤ 0xFFE → tick s = runFetched s) ∧
    (s.fault = none → 0xFFE < s.pc.toNat → TakesError (tick s) s .programCounterOutOfBounds) ∧
    ∀ b c, mapNext (·.setWaitActive c) (tick (s.setWaitActive b)) = mapNext (·.setWaitActive c) (tick s)

/-- 60_exceptions.md R320: the frame step, and its silence while an error is latched. -/
def Obligations.FrameStepCountsTheTimersDown : Prop :=
  ∀ s : State,
    (s.fault = none → Answers (runOp .frame s) fun t =>
      t.displayChanged = false ∧ t.dt.toNat = s.dt.toNat - 1 ∧ t.st.toNat = s.st.toNat - 1 ∧
      t.soundActive = decide (0 < t.st.toNat) ∧ KeepsAllBut [.displayChanged, .dt, .st, .soundActive] s t) ∧
    (s.fault ≠ none → runOp .frame s = .next s)

/-- 70_reset_and_hazards.md R362, which the spec derives from R262 and R320: an ST of v sounds for v - 1 frames and never
starts at v = 1; DT and ST are floored at 0. -/
def Obligations.SoundLastsOneFrameLess : Prop :=
  ∀ (n : Nat) (s : State), s.fault = none →
    (frameStep^[n + 1] s).soundActive = decide (n + 1 < s.st.toNat) ∧
    (frameStep^[n + 1] s).st.toNat = s.st.toNat - (n + 1) ∧ (frameStep^[n + 1] s).dt.toNat = s.dt.toNat - (n + 1)

/-- 60_exceptions.md R321: a pending wait takes the lowest set bit of a nonzero mask; anything else is a no-op. -/
def Obligations.KeyEdgeResolvesTheWait : Prop :=
  ∀ (edge : Word) (s : State),
    (s.fault = none → s.waitActive = true → edge ≠ 0#16 → Answers (runOp (.keyEdge edge) s) fun t =>
      (∃ k, k < 16 ∧ edge.getLsbD k = true ∧ (∀ j, j < k → edge.getLsbD j = false) ∧ (t.getV s.waitReg).toNat = k) ∧
      t.waitActive = false ∧ KeepsRegsBut [s.waitReg] s t ∧ KeepsAllBut [.v, .waitActive] s t) ∧
    ((s.fault ≠ none ∨ s.waitActive = false ∨ edge = 0#16) → runOp (.keyEdge edge) s = .next s)

/-- R322 (the edge detector is the spec's own form of it, decision D24, log 13): prev_keys takes the mask, and the wait is
resolved by the keys that are down now and were not at the last poll. -/
def Obligations.KeyPollPassesNewPresses : Prop :=
  ∀ (keys : Word) (s : State),
    (s.fault ≠ none → runOp (.keyPoll keys) s = .next s) ∧
    (s.fault = none → Answers (runOp (.keyPoll keys) s) fun t =>
      t.prevKeys = keys ∧ KeepsAllBut [.v, .waitActive, .prevKeys] s t ∧
      ((s.waitActive = true ∧ ∃ k, k < 16 ∧ keys.getLsbD k = true ∧ s.prevKeys.getLsbD k = false) →
        ∃ k, k < 16 ∧ keys.getLsbD k = true ∧ s.prevKeys.getLsbD k = false ∧
          (∀ j, j < k → keys.getLsbD j = true → s.prevKeys.getLsbD j = true) ∧
          (t.getV s.waitReg).toNat = k ∧ t.waitActive = false ∧ KeepsRegsBut [s.waitReg] s t) ∧
      ((s.waitActive = false ∨ ∀ k, k < 16 → keys.getLsbD k = true → s.prevKeys.getLsbD k = true) →
        t.waitActive = s.waitActive ∧ KeepsRegsBut [] s t))

/-- 10_state.md R41, 70_reset_and_hazards.md R356: the host drives the two quirk inputs, both as it likes, and touches nothing
of the block, whether or not an error is latched. That a drive is an entry of the host's schedule is the model's choice (log
4). -/
def Obligations.DriveSetsTheQuirkInputs : Prop :=
  ∀ (a b : Bool) (s : State), Answers (runOp (.drive a b) s) fun t =>
    t.env = { s.env with shiftReadsVy := a, indexIncrements := b } ∧ KeepsAllBut [.env] s t

/-! ## Reset and load -/

/-- 70_reset_and_hazards.md R350, R352: RESET puts every piece of state at its reset value from any state; the parameters and
inputs are not reset. prev_keys = 0, fault = none and RESET as an operation are the spec's own decisions D24, D21, D29. -/
def Obligations.ResetRestoresEveryPiece : Prop :=
  ∀ s : State, Answers (runOp .reset s) fun t =>
    (∀ r, t.getV r = 0x00#8) ∧ t.i.toNat = 0 ∧ t.pc.toNat = 0x200 ∧ (∀ k, k < 16 → t.stackAt k = some 0x0000#16) ∧
    t.sp.toNat = 0 ∧ t.dt.toNat = 0 ∧ t.st.toNat = 0 ∧
    (∀ a (h : a < 80), t.readByte a = s.cfg.font[a]) ∧ (∀ a, 80 ≤ a → t.readByte a = 0x00#8) ∧ t.memOk ∧
    (∀ k (h : k < 256), t.fb[k] = 0x00#8) ∧ t.displayChanged = false ∧ t.soundActive = false ∧
    t.waitActive = false ∧ t.waitReg.toNat = 0 ∧ t.prevKeys.toNat = 0 ∧ t.fault = none ∧ t.cfg = s.cfg ∧ t.env = s.env

/-- R353, R354: at most 3584 bytes are copied to 0x200.. over the reset state; more latch MemoryOverflow and change nothing
else. The host is answered ok or MemoryOverflow. What LOAD does to the other state and to the latch is the spec's own decision
D29. On a block already faulted the spec says both that the longer LOAD replaces the error (R353, R354, D29) and that no second
error is raised (R313, D21): failedLoad, the model's own parameter (log 17), both its values covered. -/
def Obligations.LoadIsAllOrNothing : Prop :=
  ∀ (p : List Byte) (s : State),
    (p.length ≤ 3584 → Answers (runOp (.load p) s) fun t =>
      (∀ k (h : k < p.length), t.readByte (0x200 + k) = p[k]) ∧
      (∀ a, a < 0x200 ∨ 0x200 + p.length ≤ a → t.readByte a = (resetBlock s).readByte a) ∧
      t.fault = none ∧ t.memOk ∧ KeepsAllBut [.mem] (resetBlock s) t ∧ opResult (.load p) t = none) ∧
    (3584 < p.length → (s.fault = none ∨ s.cfg.failedLoad = .replacesError) →
      TakesError (runOp (.load p) s) s .memoryOverflow) ∧
    (3584 < p.length → s.fault ≠ none → s.cfg.failedLoad = .keepsError → runOp (.load p) s = .next s) ∧
    (3584 < p.length → ∀ t, opResult (.load p) t = some .memoryOverflow)

/-! ## The tick, errors and the whole machine -/

/-- 30_encoding.md R81: PC outside [0x000, 0xFFE] at the start of a TICK is ProgramCounterOutOfBounds, and 0xFFE is in. Which
TICK gets so far, every one under KEY_WAIT_POLICY = advance (R264), is the spec's parameter of decision D14 (log 1). -/
def Obligations.PcIsCheckedBeforeFetch : Prop :=
  ∀ s : State, s.fault = none → (s.cfg.keyWait = .advance ∨ s.waitActive = false) →
    (0xFFE < s.pc.toNat → TakesError (tick s) s .programCounterOutOfBounds) ∧
    (s.pc.toNat ≤ 0xFFE → tick s = runFetched s)

/-- 60_exceptions.md R312, R313 (the latch is the spec's own decision D21): a latched error makes every operation on the block
but RESET and LOAD a no-op, TICK returns it, only RESET or a LOAD that fits clears it, and no operation raises a second error
in its place, but for MemoryOverflow in a LOAD that does not fit: there R313 and R353 differ, and failedLoad, the model's own
parameter (log 17), says which is followed, both its values covered. -/
def Obligations.FaultedBlockIsTerminal : Prop :=
  ∀ (s : State) (e : MachineError), s.fault = some e →
    tick s = .next s ∧ (∀ keys, opResult (.tick keys) s = some e) ∧ runOp .frame s = .next s ∧
    (∀ m, runOp (.keyEdge m) s = .next s ∧ runOp (.keyPoll m) s = .next s) ∧
    (∀ p : List Byte, 3584 < p.length → s.cfg.failedLoad = .keepsError → runOp (.load p) s = .next s) ∧
    (∀ op t, runOp op s = .next t → t.fault = none ∨ t.fault = some e ∨
      (s.cfg.failedLoad = .replacesError ∧ t.fault = some .memoryOverflow ∧ ∃ p : List Byte, op = .load p ∧ 3584 < p.length)) ∧
    (∀ op t, runOp op s = .next t →
      (t.fault = none ↔ (op = .reset ∨ ∃ p : List Byte, op = .load p ∧ p.length ≤ 3584)))

/-- R309, R310, R313 (that no check comes after a write is the spec's own decision D22): an operation that latches a new error
leaves everything else exactly as it was, and found none latched, but for a LOAD under failedLoad = replacesError, the model's
own parameter (log 17); a TICK has only been passed its keys, and has drawn no byte. -/
def Obligations.ErrorsArePrecise : Prop :=
  ∀ (op : HostOp) (s t : State), runOp op s = .next t → t.fault ≠ none → t.fault ≠ s.fault →
    (s.fault = none ∨ (s.cfg.failedLoad = .replacesError ∧ ∃ p, op = .load p)) ∧
    ((∃ keys, op = .tick keys ∧ t = { s with fault := t.fault, env := { s.env with keys := keys } }) ∨
      (∃ p, op = .load p ∧ t = { s with fault := t.fault }))

/-- R80, R300 to R302: a step is the next operation of the host's schedule, whichever it is, once the schedule has moved on;
with nothing scheduled it is a TICK (log 2). Where the bytes at PC decode to i, a TICK is exec of i, a scheduled one with its
keys passed first. That a wait holds no TICK under KEY_WAIT_POLICY = advance is decision D14 (log 1). -/
def Obligations.StepRunsTheDecodedInstruction : Prop :=
  (∀ (s : State) (op : HostOp) (ops : List HostOp), s.env.ops = op :: ops →
    step s = runOp op { s with env := { s.env with ops := ops } }) ∧
  (∀ s : State, s.env.ops = [] → step s = tick s) ∧
  ∀ (s : State) (i : Instr), s.fault = none → (s.cfg.keyWait = .advance ∨ s.waitActive = false) →
    s.pc.toNat ≤ 0xFFE →
    decode s.cfg.sysPolicy (s.readByte s.pc.toNat) (s.readByte (s.pc.toNat + 1)) = .instr i →
    (s.env.ops = [] → step s = exec i s) ∧
    (∀ keys ops, s.env.ops = .tick keys :: ops →
      step s = exec i { s with env := { s.env with ops := ops, keys := keys } })

/-- The model's own probe (log 9): a table word placed for the next step is the instruction that step runs. -/
def Obligations.PlacedWordRunsNext : Prop :=
  ∀ (s : State) (w : Nat) (i : Instr), s.memOk → decodeTableWord 16 w = some i →
    (s.cfg.sysPolicy = .nop ∨ ∀ nnn, i ≠ .sys nnn) → step (s.withFetchWord 16 w) = exec i (s.withFetchWord 16 w)

/-- The reset state of 70_reset_and_hazards.md R350 meets the invariant. -/
def Obligations.ResetStateMeetsInvariant : Prop := State.reset.Inv

/-- The invariant (memory canonical; SP legal, 10_state.md R29; PC at most 0x10FE, 30_encoding.md R96; stack entries at most
0x1000, 40_control_flow.md R110) is kept by every step, whatever the host does. -/
def Obligations.StepKeepsInvariant : Prop :=
  ∀ s t : State, s.Inv → step s = .next t → t.Inv

/-- Under the invariant every step of every schedule answers a next state: the machine never gets stuck. -/
def Obligations.StepNeverStops : Prop :=
  ∀ s : State, s.Inv → ∃ t, step s = .next t

/-- R300 to R302, with the schedule of log 2: from any state of the invariant every schedule is carried out, one operation a
step, and its end is that of its operations performed one after the other, none dropped, none added, in their order; what is
still scheduled reaches no operation. Runs of every length go on. -/
def Obligations.EveryScheduleIsCarriedOut : Prop :=
  ∀ s : State, s.Inv →
    (∃ t, Sys2Proof.core.run s.env.ops.length s = .next t ∧
      performOps s.env.ops (s.withOps []) = .next t ∧ t.env.ops = [] ∧ t.Inv) ∧
    ∀ n, ∃ t, Sys2Proof.core.run n s = .next t ∧ t.Inv

/-- From 60_exceptions.md R312 (decision D21): with nothing scheduled but TICKs, a run of n steps is safe exactly when its
last state is: an error once latched stays. -/
def Obligations.RunIsSafeWhenItsEndIs : Prop :=
  ∀ (n : Nat) (s : State), s.env.ops = [] →
    (safeFor n s ↔ ∃ t, Sys2Proof.core.run n s = .next t ∧ t.running)

/-- 00_scope.md R10, 70_reset_and_hazards.md R350: no operation changes a policy parameter or FONT, nor failedLoad, the model's
own (log 17). -/
def Obligations.ParametersNeverChange : Prop :=
  ∀ (s t : State), step s = .next t → t.cfg = s.cfg

/-- Which instructions can change each piece of state: V registers (10_state.md R22, derived by the spec; its VF rests on
decisions D5, D6 and D18), PC (R23), I (R24; the index quirk is decision D8), memory (R25), the stack and SP (R28, R29;
decision D11), DT and ST (R30, R31), FB and display_changed (R32, R33; CLS sets it by the parameter of decision D16, log 1),
sound_active (R34; decision D23), the wait latch (R35, R36), prev_keys (R37; decision D24), fault and with which error (R38;
decisions D2, D12, D13, D21, and log 10 for SYS), the parameters and the host's side. The decisions are the spec's own (log
13, log 1 for its parameters). -/
def Obligations.OnlyNamedInstructionsWrite : Prop :=
  ∀ (i : Instr) (s t : State), exec i s = .next t →
    (∀ r, t.getV r ≠ s.getV r → MayWriteV i r) ∧
    (t.pc = s.pc + 2 ∨ (t.pc = s.pc ∧ t.fault ≠ none) ∨
      (t.pc = s.pc + 4 ∧
        ((∃ x kk, i = .seImm x kk ∨ i = .sneImm x kk) ∨ (∃ x y, i = .seReg x y ∨ i = .sneReg x y) ∨
          ∃ x, i = .skp x ∨ i = .sknp x)) ∨
      i = .ret ∨ ∃ nnn, i = .jp nnn ∨ i = .call nnn ∨ i = .jpV0 nnn) ∧
    (t.fault ≠ s.fault → ∃ e, t.fault = some e ∧ MayRaise i s e) ∧
    (t.sp ≠ s.sp → i = .ret ∨ ∃ nnn, i = .call nnn) ∧
    (t.stack ≠ s.stack → ∃ nnn, i = .call nnn) ∧
    (t.i ≠ s.i → (∃ nnn, i = .ldI nnn) ∨ ∃ x, i = .addIVx x ∨ i = .ldFVx x ∨
      (s.env.indexIncrements = true ∧ (i = .ldMemVx x ∨ i = .ldVxMem x))) ∧
    (t.dt ≠ s.dt → ∃ x, i = .ldDtVx x) ∧ (t.st ≠ s.st → ∃ x, i = .ldStVx x) ∧
    ((∃ a, t.readByte a ≠ s.readByte a) → ∃ x, i = .ldBVx x ∨ i = .ldMemVx x) ∧
    (t.fb ≠ s.fb → i = .cls ∨ ∃ x y n, i = .drw x y n) ∧
    (t.displayChanged ≠ s.displayChanged → t.displayChanged = true ∧
      ((i = .cls ∧ s.cfg.clsSetsDisplayChanged = true) ∨ ∃ x y n, i = .drw x y n)) ∧
    t.soundActive = s.soundActive ∧ t.prevKeys = s.prevKeys ∧ t.cfg = s.cfg ∧
    (t.waitActive ≠ s.waitActive ∨ t.waitReg ≠ s.waitReg → ∃ x, i = .ldVxK x) ∧
    (t.env ≠ s.env → ∃ x kk, i = .rnd x kk)

/-- 60_exceptions.md R323: an instruction other than SKP and SKNP does the same whatever keys are down. -/
def Obligations.OnlyKeySkipsReadTheKeys : Prop :=
  ∀ (i : Instr) (s : State) (keys : Word), (∀ x, i ≠ .skp x ∧ i ≠ .sknp x) →
    exec i (s.withKeys keys) = mapNext (·.withKeys keys) (exec i s)

/-- 10_state.md R41 (decision D7), 42_index_memory.md R206 (decision D8): the shift quirk reaches 8xy6 and 8xyE only, the
index quirk Fx55 and Fx65 only. -/
def Obligations.QuirksReachOnlyTheirInstructions : Prop :=
  ∀ (i : Instr) (s : State) (b : Bool),
    ((∀ x y, i ≠ .shr x y ∧ i ≠ .shl x y) →
      exec i (s.withShiftQuirk b) = mapNext (·.withShiftQuirk b) (exec i s)) ∧
    ((∀ x, i ≠ .ldMemVx x ∧ i ≠ .ldVxMem x) →
      exec i (s.withIndexQuirk b) = mapNext (·.withIndexQuirk b) (exec i s))

/-- What no instruction reads: ST (10_state.md R31), display_changed (R33), sound_active (R34), the wait latch (R35, R36) and
prev_keys (R37; decision D24, log 13). Another value of such a piece before the instruction changes that piece alone after
it, or nothing where the instruction overwrites it; for display_changed, which CLS (by the parameter of decision D16, log 1)
and DRW may overwrite, the two ends are compared with that flag put at one value. FB is read by DRW alone (R32) and DT by LD
Vx, DT alone (R30). -/
def Obligations.UnreadStateReachesNothingElse : Prop :=
  ∀ (i : Instr) (s : State),
    (∀ b, (∀ x, i ≠ .ldStVx x) → exec i (s.setSt b) = mapNext (·.setSt b) (exec i s)) ∧
    (∀ b x, exec (.ldStVx x) (s.setSt b) = exec (.ldStVx x) s) ∧
    (∀ b c, mapNext (·.setDisplayChanged c) (exec i (s.setDisplayChanged b)) = mapNext (·.setDisplayChanged c) (exec i s)) ∧
    (∀ b, exec i (s.setSoundActive b) = mapNext (·.setSoundActive b) (exec i s)) ∧
    (∀ m, exec i (s.setPrevKeys m) = mapNext (·.setPrevKeys m) (exec i s)) ∧
    (∀ b r, (∀ x, i ≠ .ldVxK x) → exec i ((s.setWaitActive b).setWaitReg r) =
      mapNext (fun t => (t.setWaitActive b).setWaitReg r) (exec i s)) ∧
    (∀ b r x, exec (.ldVxK x) ((s.setWaitActive b).setWaitReg r) = exec (.ldVxK x) s) ∧
    (∀ fb, i ≠ .cls → (∀ x y n, i ≠ .drw x y n) → exec i (s.setFb fb) = mapNext (·.setFb fb) (exec i s)) ∧
    (∀ fb, exec .cls (s.setFb fb) = exec .cls s) ∧
    (∀ b, (∀ x, i ≠ .ldVxDt x ∧ i ≠ .ldDtVx x) → exec i (s.setDt b) = mapNext (·.setDt b) (exec i s)) ∧
    (∀ b x, exec (.ldDtVx x) (s.setDt b) = exec (.ldDtVx x) s)
end

