-- ==== Sys2Proof/Laws/Decode.lean ====
section
/-! SUPPORT. Fields of a byte put together and taken apart again. -/

namespace Sys2Proof

@[simp] theorem hiNibble_append (a b : Nibble) : hiNibble (a ++ b) = a := by
  revert a b; decide

@[simp] theorem loNibble_append (a b : Nibble) : loNibble (a ++ b) = b := by
  revert a b; decide

@[simp] theorem hiNibble_append_loNibble (b : Byte) : (hiNibble b ++ loNibble b : Byte) = b := by
  revert b; decide

@[simp] theorem addr_append (nnn : Addr) : (nnn.extractLsb' 8 4 ++ nnn.extractLsb' 0 8 : Addr) = nnn := by
  apply BitVec.eq_of_getLsbD_eq
  intro i hi
  simp only [BitVec.getLsbD_append, BitVec.getLsbD_extractLsb']
  by_cases h : i < 8
  · simp [h]
  · have h4 : i - 8 < 4 := by omega
    simp [h, h4, show 8 + (i - 8) = i by omega]

@[simp] theorem addr_high (x : Nibble) (b : Byte) : (x ++ b : Addr).extractLsb' 8 4 = x := by
  apply BitVec.eq_of_getLsbD_eq
  intro i hi
  simp only [BitVec.getLsbD_extractLsb', hi, decide_true, Bool.true_and]
  refine BitVec.getLsbD_append.trans ?_
  simp [hi]

@[simp] theorem addr_low (x : Nibble) (b : Byte) : (x ++ b : Addr).extractLsb' 0 8 = b := by
  apply BitVec.eq_of_getLsbD_eq
  intro i hi
  simp only [BitVec.getLsbD_extractLsb', hi, decide_true, Bool.true_and]
  refine BitVec.getLsbD_append.trans ?_
  simp [hi]

@[simp] theorem hiByte_wordOf (b1 b2 : Byte) : hiByte (wordOf b1 b2) = b1 := by
  apply BitVec.eq_of_getLsbD_eq
  intro i hi
  simp only [hiByte, wordOf, BitVec.getLsbD_extractLsb', hi, decide_true, Bool.true_and]
  refine BitVec.getLsbD_append.trans ?_
  simp [hi]

@[simp] theorem loByte_wordOf (b1 b2 : Byte) : loByte (wordOf b1 b2) = b2 := by
  apply BitVec.eq_of_getLsbD_eq
  intro i hi
  simp only [loByte, wordOf, BitVec.getLsbD_extractLsb', hi, decide_true, Bool.true_and]
  refine BitVec.getLsbD_append.trans ?_
  simp [hi]

@[simp] theorem fieldOp_append (op x : Nibble) : fieldOp (op ++ x) = op := hiNibble_append op x

@[simp] theorem fieldX_append (op x : Nibble) : fieldX (op ++ x) = x := loNibble_append op x

@[simp] theorem fieldY_append (y n : Nibble) : fieldY (y ++ n) = y := hiNibble_append y n

@[simp] theorem fieldN_append (y n : Nibble) : fieldN (y ++ n) = n := loNibble_append y n

@[simp] theorem fieldNnn_append (op : Nibble) (nnn : Addr) :
    fieldNnn (op ++ nnn.extractLsb' 8 4) (nnn.extractLsb' 0 8) = nnn := by
  simp [fieldNnn]

/-- Decode is the table but for SYS, which SYS_POLICY decides (30_encoding.md R92, R94). -/
theorem decode_of_table {b1 b2 : Byte} {i : Instr} (h : decodeTable b1 b2 = some i) (hs : ∀ nnn, i ≠ .sys nnn)
    (p : SysPolicy) : decode p b1 b2 = .instr i := by
  unfold decode
  rw [h]
  cases i <;> first | rfl | exact absurd rfl (hs _)

theorem decode_of_sys {b1 b2 : Byte} {nnn : Addr} (h : decodeTable b1 b2 = some (.sys nnn)) (p : SysPolicy) :
    decode p b1 b2 = if p = .nop then .instr (.sys nnn) else .badOperation b1 b2 := by
  unfold decode
  rw [h]
  cases p <;> rfl

theorem decode_of_none {b1 b2 : Byte} (h : decodeTable b1 b2 = none) (p : SysPolicy) :
    decode p b1 b2 = .badOperation b1 b2 := by
  unfold decode
  rw [h]

/-- The high byte of a SYS word is its top nibble: the op nibble is 0 (30_encoding.md R90). -/
theorem encode_sys_high (nnn : Addr) : (encode (.sys nnn)).1 = (nnn.extractLsb' 8 4).setWidth 8 := by
  apply BitVec.eq_of_getLsbD_eq
  intro i hi
  simp only [encode, encodeNnn, BitVec.getLsbD_append, BitVec.getLsbD_setWidth]
  interval_cases i <;> simp

theorem encode_sys_low (nnn : Addr) : (encode (.sys nnn)).2 = nnn.extractLsb' 0 8 := rfl

end Sys2Proof
end

