-- ==== Sys2Proof/Laws/Display.lean ====
section
/-! SUPPORT. The framebuffer: what one flip does to every pixel, what a blit of distinct pixels does, and which pixels a
sprite covers. -/

namespace Sys2Proof.Machine

theorem pix_clearFb (px : Fin 64) (py : Fin 32) : pix clearFb px py = false := by
  simp [pix, clearFb, Vector.get]

/-- A pixel is named by its byte and its bit. -/
theorem pixByte_pixBit_inj {px qx : Fin 64} {py qy : Fin 32} (h : pixByte px py = pixByte qx qy)
    (hb : pixBit px = pixBit qx) : px = qx ∧ py = qy := by
  simp only [pixByte, pixBit, Fin.ext_iff] at *
  omega

theorem pixBit_lt (px : Fin 64) : pixBit px < 8 := by
  simp only [pixBit]
  omega

/-- XOR with one bit set: that bit flips and no other. -/
theorem getLsbD_flip (b : Byte) (i j : Nat) (hj : j < 8) :
    (b ^^^ (1#8 <<< i)).getLsbD j = (b.getLsbD j ^^ decide (j = i)) := by
  simp only [BitVec.getLsbD_xor, BitVec.getLsbD_shiftLeft, hj, decide_true, Bool.true_and, BitVec.getLsbD_one]
  congr 1
  by_cases h : j = i
  · simp [h]
  · by_cases hlt : j < i
    · simp [h, hlt]
    · have : j - i ≠ 0 := by omega
      simp [h, this]

/-- A flip changes its own pixel and no other. -/
theorem pix_flipPix (fb : Framebuffer) (px qx : Fin 64) (py qy : Fin 32) :
    pix (flipPix fb px py) qx qy = (pix fb qx qy ^^ decide (qx = px ∧ qy = py)) := by
  by_cases hbyte : pixByte qx qy = pixByte px py
  · have hget : (flipPix fb px py).get (pixByte qx qy) =
        fb.get (pixByte qx qy) ^^^ (1#8 <<< pixBit px) := by
      rw [hbyte]
      simp [flipPix, Vector.get_eq_getElem]
    rw [pix, hget, getLsbD_flip _ _ _ (pixBit_lt qx), pix]
    congr 2
    refine propext ⟨fun hb => ?_, fun h => by rw [h.1]⟩
    exact pixByte_pixBit_inj hbyte hb
  · have hget : (flipPix fb px py).get (pixByte qx qy) = fb.get (pixByte qx qy) := by
      have hne : (pixByte px py).val ≠ (pixByte qx qy).val := fun h => hbyte (Fin.ext h.symm)
      simp [flipPix, Vector.get_eq_getElem, Vector.getElem_set_ne _ _ hne]
    have hne : ¬ (qx = px ∧ qy = py) := fun h => hbyte (by rw [h.1, h.2])
    rw [pix, hget, pix]
    simp [hne]

/-- A blit of distinct pixels XORs exactly those pixels (43_display.md R233). -/
theorem pix_blit (ps : List (Fin 64 × Fin 32)) (fb : Framebuffer) (hit : Bool) (hd : ps.Nodup) (qx : Fin 64)
    (qy : Fin 32) : pix (blit ps fb hit).1 qx qy = (pix fb qx qy ^^ decide ((qx, qy) ∈ ps)) := by
  induction ps generalizing fb hit with
  | nil => simp [blit]
  | cons p ps ih =>
    rw [List.nodup_cons] at hd
    rw [blit, ih _ _ hd.2, pix_flipPix]
    by_cases hp : (qx, qy) = p
    · subst hp
      simp [hd.1]
    · have h1 : ¬ (qx = p.1 ∧ qy = p.2) := fun h => hp (Prod.ext h.1 h.2)
      simp [h1, hp]

/-- Its flag is set exactly when it was set before or one of the pixels was (R234). -/
theorem blit_hit (ps : List (Fin 64 × Fin 32)) (fb : Framebuffer) (hit : Bool) (hd : ps.Nodup) :
    (blit ps fb hit).2 = true ↔ hit = true ∨ ∃ p ∈ ps, pix fb p.1 p.2 = true := by
  induction ps generalizing fb hit with
  | nil => simp [blit]
  | cons p ps ih =>
    rw [List.nodup_cons] at hd
    rw [blit, ih _ _ hd.2]
    have hkeep : ∀ q ∈ ps, pix (flipPix fb p.1 p.2) q.1 q.2 = pix fb q.1 q.2 := by
      intro q hq
      have hne : ¬ (q.1 = p.1 ∧ q.2 = p.2) := fun h => hd.1 (Prod.ext h.1 h.2 ▸ hq)
      simp [pix_flipPix, hne]
    have hex : (∃ q ∈ ps, pix (flipPix fb p.1 p.2) q.1 q.2 = true) ↔ ∃ q ∈ ps, pix fb q.1 q.2 = true :=
      ⟨fun ⟨q, hq, h⟩ => ⟨q, hq, hkeep q hq ▸ h⟩, fun ⟨q, hq, h⟩ => ⟨q, hq, (hkeep q hq).symm ▸ h⟩⟩
    rw [hex]
    simp [or_assoc]

theorem mem_rowPixels (x0 y0 r : Nat) (row : Byte) (p : Fin 64 × Fin 32) :
    p ∈ rowPixels x0 y0 r row ↔ ∃ c, c < 8 ∧ row.getLsbD (7 - c) = true ∧ p = (wrapX x0 c, wrapY y0 r) := by
  simp only [rowPixels, List.mem_filterMap, List.mem_range]
  constructor
  · rintro ⟨c, hc, h⟩
    split at h
    · exact ⟨c, hc, by assumption, by simpa using h.symm⟩
    · cases h
  · rintro ⟨c, hc, hb, rfl⟩
    exact ⟨c, hc, by simp [hb]⟩

/-- The pixels of a sprite: row r, column c, where that bit of the sprite is set (R231, R233). -/
theorem mem_spritePixels (x0 y0 r0 : Nat) (rows : List Byte) (p : Fin 64 × Fin 32) :
    p ∈ spritePixels x0 y0 r0 rows ↔
      ∃ r c, ∃ h : r < rows.length, c < 8 ∧ rows[r].getLsbD (7 - c) = true ∧
        p = (wrapX x0 c, wrapY y0 (r0 + r)) := by
  induction rows generalizing r0 with
  | nil => simp [spritePixels]
  | cons row rows ih =>
    rw [spritePixels, List.mem_append, mem_rowPixels, ih]
    constructor
    · rintro (⟨c, hc, hb, rfl⟩ | ⟨r, c, h, hc, hb, rfl⟩)
      · exact ⟨0, c, by simp, hc, hb, rfl⟩
      · exact ⟨r + 1, c, by simpa using h, hc, by simpa using hb, by rw [show r0 + 1 + r = r0 + (r + 1) by omega]⟩
    · rintro ⟨r, c, h, hc, hb, rfl⟩
      cases r with
      | zero => exact .inl ⟨c, hc, hb, rfl⟩
      | succ r =>
        exact .inr ⟨r, c, by simpa using h, hc, by simpa using hb, by rw [show r0 + 1 + r = r0 + (r + 1) by omega]⟩

/-- Eight columns from any start are distinct: 8 < 64 (R233, no self-overlap). -/
theorem rowPixels_nodup (x0 y0 r : Nat) (row : Byte) : (rowPixels x0 y0 r row).Nodup := by
  unfold rowPixels List.Nodup
  rw [List.pairwise_filterMap]
  refine List.Pairwise.imp_of_mem (fun {c c'} hc hc' hne p hp q hq hpq => ?_) List.nodup_range
  simp only [List.mem_range] at hc hc'
  split at hp <;> simp only [Option.some.injEq, reduceCtorEq] at hp
  split at hq <;> simp only [Option.some.injEq, reduceCtorEq] at hq
  rw [← hp, ← hq] at hpq
  simp only [wrapX, Config.displayW, Prod.mk.injEq, Fin.mk.injEq, and_true] at hpq
  omega

/-- At most 32 rows from any start are distinct, so no two bits of a sprite land on the same pixel (R233). -/
theorem spritePixels_nodup (x0 y0 r0 : Nat) (rows : List Byte) (h : rows.length ≤ 32) :
    (spritePixels x0 y0 r0 rows).Nodup := by
  induction rows generalizing r0 with
  | nil => simp [spritePixels]
  | cons row rows ih =>
    simp only [List.length_cons] at h
    rw [spritePixels, List.nodup_append']
    refine ⟨rowPixels_nodup _ _ _ _, ih _ (by omega), fun p hp hq => ?_⟩
    obtain ⟨c, -, -, rfl⟩ := (mem_rowPixels _ _ _ _ _).mp hp
    obtain ⟨r, c', hr, -, -, heq⟩ := (mem_spritePixels _ _ _ _ _).mp hq
    simp only [wrapY, Config.displayH, Prod.mk.injEq, Fin.mk.injEq] at heq
    omega

/-- Framebuffers with the same pixels are the same bytes: the 2048 pixels are all there is (43_display.md R230). -/
theorem pix_ext {a b : Framebuffer} (h : ∀ px py, pix a px py = pix b px py) : a = b := by
  apply Vector.ext
  intro k hk
  apply BitVec.eq_of_getLsbD_eq
  intro j hj
  have hpix := h ⟨k % 8 * 8 + (7 - j), by omega⟩ ⟨k / 8, by omega⟩
  simp only [pix, pixByte, pixBit, Vector.get_eq_getElem] at hpix
  have hbyte : 8 * (k / 8) + (k % 8 * 8 + (7 - j)) / 8 = k := by omega
  have hbit : 7 - (k % 8 * 8 + (7 - j)) % 8 = j := by omega
  have hbit' : 7 - (7 - j) % 8 = j := by omega
  simpa [hbyte, hbit, hbit'] using hpix

end Sys2Proof.Machine
end

