-- ==== Sys2Proof/Laws/State.lean ====
section
/-! SUPPORT. One lemma per field per update of State, and what the reads of a register and of a byte see of each update.
Later proofs unfold no record update. -/

namespace Sys2Proof.Machine

/-! setRegs -/

@[simp] theorem State.setRegs_v (s : State) (a : Vector Byte 16) : (s.setRegs a).v = a := rfl
@[simp] theorem State.setRegs_pc (s : State) (a : Vector Byte 16) : (s.setRegs a).pc = s.pc := rfl
@[simp] theorem State.setRegs_i (s : State) (a : Vector Byte 16) : (s.setRegs a).i = s.i := rfl
@[simp] theorem State.setRegs_stack (s : State) (a : Vector Byte 16) : (s.setRegs a).stack = s.stack := rfl
@[simp] theorem State.setRegs_sp (s : State) (a : Vector Byte 16) : (s.setRegs a).sp = s.sp := rfl
@[simp] theorem State.setRegs_dt (s : State) (a : Vector Byte 16) : (s.setRegs a).dt = s.dt := rfl
@[simp] theorem State.setRegs_st (s : State) (a : Vector Byte 16) : (s.setRegs a).st = s.st := rfl
@[simp] theorem State.setRegs_mem (s : State) (a : Vector Byte 16) : (s.setRegs a).mem = s.mem := rfl
@[simp] theorem State.setRegs_fb (s : State) (a : Vector Byte 16) : (s.setRegs a).fb = s.fb := rfl
@[simp] theorem State.setRegs_displayChanged (s : State) (a : Vector Byte 16) : (s.setRegs a).displayChanged = s.displayChanged := rfl
@[simp] theorem State.setRegs_soundActive (s : State) (a : Vector Byte 16) : (s.setRegs a).soundActive = s.soundActive := rfl
@[simp] theorem State.setRegs_waitActive (s : State) (a : Vector Byte 16) : (s.setRegs a).waitActive = s.waitActive := rfl
@[simp] theorem State.setRegs_waitReg (s : State) (a : Vector Byte 16) : (s.setRegs a).waitReg = s.waitReg := rfl
@[simp] theorem State.setRegs_prevKeys (s : State) (a : Vector Byte 16) : (s.setRegs a).prevKeys = s.prevKeys := rfl
@[simp] theorem State.setRegs_fault (s : State) (a : Vector Byte 16) : (s.setRegs a).fault = s.fault := rfl
@[simp] theorem State.setRegs_cfg (s : State) (a : Vector Byte 16) : (s.setRegs a).cfg = s.cfg := rfl
@[simp] theorem State.setRegs_env (s : State) (a : Vector Byte 16) : (s.setRegs a).env = s.env := rfl
@[simp] theorem State.setRegs_readByte (s : State) (a : Vector Byte 16) (k : Nat) : (s.setRegs a).readByte k = s.readByte k := rfl

/-! setPc -/

@[simp] theorem State.setPc_pc (s : State) (a : Word) : (s.setPc a).pc = a := rfl
@[simp] theorem State.setPc_v (s : State) (a : Word) : (s.setPc a).v = s.v := rfl
@[simp] theorem State.setPc_i (s : State) (a : Word) : (s.setPc a).i = s.i := rfl
@[simp] theorem State.setPc_stack (s : State) (a : Word) : (s.setPc a).stack = s.stack := rfl
@[simp] theorem State.setPc_sp (s : State) (a : Word) : (s.setPc a).sp = s.sp := rfl
@[simp] theorem State.setPc_dt (s : State) (a : Word) : (s.setPc a).dt = s.dt := rfl
@[simp] theorem State.setPc_st (s : State) (a : Word) : (s.setPc a).st = s.st := rfl
@[simp] theorem State.setPc_mem (s : State) (a : Word) : (s.setPc a).mem = s.mem := rfl
@[simp] theorem State.setPc_fb (s : State) (a : Word) : (s.setPc a).fb = s.fb := rfl
@[simp] theorem State.setPc_displayChanged (s : State) (a : Word) : (s.setPc a).displayChanged = s.displayChanged := rfl
@[simp] theorem State.setPc_soundActive (s : State) (a : Word) : (s.setPc a).soundActive = s.soundActive := rfl
@[simp] theorem State.setPc_waitActive (s : State) (a : Word) : (s.setPc a).waitActive = s.waitActive := rfl
@[simp] theorem State.setPc_waitReg (s : State) (a : Word) : (s.setPc a).waitReg = s.waitReg := rfl
@[simp] theorem State.setPc_prevKeys (s : State) (a : Word) : (s.setPc a).prevKeys = s.prevKeys := rfl
@[simp] theorem State.setPc_fault (s : State) (a : Word) : (s.setPc a).fault = s.fault := rfl
@[simp] theorem State.setPc_cfg (s : State) (a : Word) : (s.setPc a).cfg = s.cfg := rfl
@[simp] theorem State.setPc_env (s : State) (a : Word) : (s.setPc a).env = s.env := rfl
@[simp] theorem State.setPc_getV (s : State) (a : Word) (r : Nibble) : (s.setPc a).getV r = s.getV r := rfl
@[simp] theorem State.setPc_readByte (s : State) (a : Word) (k : Nat) : (s.setPc a).readByte k = s.readByte k := rfl

/-! setI -/

@[simp] theorem State.setI_i (s : State) (a : Word) : (s.setI a).i = a := rfl
@[simp] theorem State.setI_v (s : State) (a : Word) : (s.setI a).v = s.v := rfl
@[simp] theorem State.setI_pc (s : State) (a : Word) : (s.setI a).pc = s.pc := rfl
@[simp] theorem State.setI_stack (s : State) (a : Word) : (s.setI a).stack = s.stack := rfl
@[simp] theorem State.setI_sp (s : State) (a : Word) : (s.setI a).sp = s.sp := rfl
@[simp] theorem State.setI_dt (s : State) (a : Word) : (s.setI a).dt = s.dt := rfl
@[simp] theorem State.setI_st (s : State) (a : Word) : (s.setI a).st = s.st := rfl
@[simp] theorem State.setI_mem (s : State) (a : Word) : (s.setI a).mem = s.mem := rfl
@[simp] theorem State.setI_fb (s : State) (a : Word) : (s.setI a).fb = s.fb := rfl
@[simp] theorem State.setI_displayChanged (s : State) (a : Word) : (s.setI a).displayChanged = s.displayChanged := rfl
@[simp] theorem State.setI_soundActive (s : State) (a : Word) : (s.setI a).soundActive = s.soundActive := rfl
@[simp] theorem State.setI_waitActive (s : State) (a : Word) : (s.setI a).waitActive = s.waitActive := rfl
@[simp] theorem State.setI_waitReg (s : State) (a : Word) : (s.setI a).waitReg = s.waitReg := rfl
@[simp] theorem State.setI_prevKeys (s : State) (a : Word) : (s.setI a).prevKeys = s.prevKeys := rfl
@[simp] theorem State.setI_fault (s : State) (a : Word) : (s.setI a).fault = s.fault := rfl
@[simp] theorem State.setI_cfg (s : State) (a : Word) : (s.setI a).cfg = s.cfg := rfl
@[simp] theorem State.setI_env (s : State) (a : Word) : (s.setI a).env = s.env := rfl
@[simp] theorem State.setI_getV (s : State) (a : Word) (r : Nibble) : (s.setI a).getV r = s.getV r := rfl
@[simp] theorem State.setI_readByte (s : State) (a : Word) (k : Nat) : (s.setI a).readByte k = s.readByte k := rfl

/-! setStack -/

@[simp] theorem State.setStack_stack (s : State) (a : Vector Word 16) : (s.setStack a).stack = a := rfl
@[simp] theorem State.setStack_v (s : State) (a : Vector Word 16) : (s.setStack a).v = s.v := rfl
@[simp] theorem State.setStack_pc (s : State) (a : Vector Word 16) : (s.setStack a).pc = s.pc := rfl
@[simp] theorem State.setStack_i (s : State) (a : Vector Word 16) : (s.setStack a).i = s.i := rfl
@[simp] theorem State.setStack_sp (s : State) (a : Vector Word 16) : (s.setStack a).sp = s.sp := rfl
@[simp] theorem State.setStack_dt (s : State) (a : Vector Word 16) : (s.setStack a).dt = s.dt := rfl
@[simp] theorem State.setStack_st (s : State) (a : Vector Word 16) : (s.setStack a).st = s.st := rfl
@[simp] theorem State.setStack_mem (s : State) (a : Vector Word 16) : (s.setStack a).mem = s.mem := rfl
@[simp] theorem State.setStack_fb (s : State) (a : Vector Word 16) : (s.setStack a).fb = s.fb := rfl
@[simp] theorem State.setStack_displayChanged (s : State) (a : Vector Word 16) : (s.setStack a).displayChanged = s.displayChanged := rfl
@[simp] theorem State.setStack_soundActive (s : State) (a : Vector Word 16) : (s.setStack a).soundActive = s.soundActive := rfl
@[simp] theorem State.setStack_waitActive (s : State) (a : Vector Word 16) : (s.setStack a).waitActive = s.waitActive := rfl
@[simp] theorem State.setStack_waitReg (s : State) (a : Vector Word 16) : (s.setStack a).waitReg = s.waitReg := rfl
@[simp] theorem State.setStack_prevKeys (s : State) (a : Vector Word 16) : (s.setStack a).prevKeys = s.prevKeys := rfl
@[simp] theorem State.setStack_fault (s : State) (a : Vector Word 16) : (s.setStack a).fault = s.fault := rfl
@[simp] theorem State.setStack_cfg (s : State) (a : Vector Word 16) : (s.setStack a).cfg = s.cfg := rfl
@[simp] theorem State.setStack_env (s : State) (a : Vector Word 16) : (s.setStack a).env = s.env := rfl
@[simp] theorem State.setStack_getV (s : State) (a : Vector Word 16) (r : Nibble) : (s.setStack a).getV r = s.getV r := rfl
@[simp] theorem State.setStack_readByte (s : State) (a : Vector Word 16) (k : Nat) : (s.setStack a).readByte k = s.readByte k := rfl

/-! setSp -/

@[simp] theorem State.setSp_sp (s : State) (a : Byte) : (s.setSp a).sp = a := rfl
@[simp] theorem State.setSp_v (s : State) (a : Byte) : (s.setSp a).v = s.v := rfl
@[simp] theorem State.setSp_pc (s : State) (a : Byte) : (s.setSp a).pc = s.pc := rfl
@[simp] theorem State.setSp_i (s : State) (a : Byte) : (s.setSp a).i = s.i := rfl
@[simp] theorem State.setSp_stack (s : State) (a : Byte) : (s.setSp a).stack = s.stack := rfl
@[simp] theorem State.setSp_dt (s : State) (a : Byte) : (s.setSp a).dt = s.dt := rfl
@[simp] theorem State.setSp_st (s : State) (a : Byte) : (s.setSp a).st = s.st := rfl
@[simp] theorem State.setSp_mem (s : State) (a : Byte) : (s.setSp a).mem = s.mem := rfl
@[simp] theorem State.setSp_fb (s : State) (a : Byte) : (s.setSp a).fb = s.fb := rfl
@[simp] theorem State.setSp_displayChanged (s : State) (a : Byte) : (s.setSp a).displayChanged = s.displayChanged := rfl
@[simp] theorem State.setSp_soundActive (s : State) (a : Byte) : (s.setSp a).soundActive = s.soundActive := rfl
@[simp] theorem State.setSp_waitActive (s : State) (a : Byte) : (s.setSp a).waitActive = s.waitActive := rfl
@[simp] theorem State.setSp_waitReg (s : State) (a : Byte) : (s.setSp a).waitReg = s.waitReg := rfl
@[simp] theorem State.setSp_prevKeys (s : State) (a : Byte) : (s.setSp a).prevKeys = s.prevKeys := rfl
@[simp] theorem State.setSp_fault (s : State) (a : Byte) : (s.setSp a).fault = s.fault := rfl
@[simp] theorem State.setSp_cfg (s : State) (a : Byte) : (s.setSp a).cfg = s.cfg := rfl
@[simp] theorem State.setSp_env (s : State) (a : Byte) : (s.setSp a).env = s.env := rfl
@[simp] theorem State.setSp_getV (s : State) (a : Byte) (r : Nibble) : (s.setSp a).getV r = s.getV r := rfl
@[simp] theorem State.setSp_readByte (s : State) (a : Byte) (k : Nat) : (s.setSp a).readByte k = s.readByte k := rfl

/-! setDt -/

@[simp] theorem State.setDt_dt (s : State) (a : Byte) : (s.setDt a).dt = a := rfl
@[simp] theorem State.setDt_v (s : State) (a : Byte) : (s.setDt a).v = s.v := rfl
@[simp] theorem State.setDt_pc (s : State) (a : Byte) : (s.setDt a).pc = s.pc := rfl
@[simp] theorem State.setDt_i (s : State) (a : Byte) : (s.setDt a).i = s.i := rfl
@[simp] theorem State.setDt_stack (s : State) (a : Byte) : (s.setDt a).stack = s.stack := rfl
@[simp] theorem State.setDt_sp (s : State) (a : Byte) : (s.setDt a).sp = s.sp := rfl
@[simp] theorem State.setDt_st (s : State) (a : Byte) : (s.setDt a).st = s.st := rfl
@[simp] theorem State.setDt_mem (s : State) (a : Byte) : (s.setDt a).mem = s.mem := rfl
@[simp] theorem State.setDt_fb (s : State) (a : Byte) : (s.setDt a).fb = s.fb := rfl
@[simp] theorem State.setDt_displayChanged (s : State) (a : Byte) : (s.setDt a).displayChanged = s.displayChanged := rfl
@[simp] theorem State.setDt_soundActive (s : State) (a : Byte) : (s.setDt a).soundActive = s.soundActive := rfl
@[simp] theorem State.setDt_waitActive (s : State) (a : Byte) : (s.setDt a).waitActive = s.waitActive := rfl
@[simp] theorem State.setDt_waitReg (s : State) (a : Byte) : (s.setDt a).waitReg = s.waitReg := rfl
@[simp] theorem State.setDt_prevKeys (s : State) (a : Byte) : (s.setDt a).prevKeys = s.prevKeys := rfl
@[simp] theorem State.setDt_fault (s : State) (a : Byte) : (s.setDt a).fault = s.fault := rfl
@[simp] theorem State.setDt_cfg (s : State) (a : Byte) : (s.setDt a).cfg = s.cfg := rfl
@[simp] theorem State.setDt_env (s : State) (a : Byte) : (s.setDt a).env = s.env := rfl
@[simp] theorem State.setDt_getV (s : State) (a : Byte) (r : Nibble) : (s.setDt a).getV r = s.getV r := rfl
@[simp] theorem State.setDt_readByte (s : State) (a : Byte) (k : Nat) : (s.setDt a).readByte k = s.readByte k := rfl

/-! setSt -/

@[simp] theorem State.setSt_st (s : State) (a : Byte) : (s.setSt a).st = a := rfl
@[simp] theorem State.setSt_v (s : State) (a : Byte) : (s.setSt a).v = s.v := rfl
@[simp] theorem State.setSt_pc (s : State) (a : Byte) : (s.setSt a).pc = s.pc := rfl
@[simp] theorem State.setSt_i (s : State) (a : Byte) : (s.setSt a).i = s.i := rfl
@[simp] theorem State.setSt_stack (s : State) (a : Byte) : (s.setSt a).stack = s.stack := rfl
@[simp] theorem State.setSt_sp (s : State) (a : Byte) : (s.setSt a).sp = s.sp := rfl
@[simp] theorem State.setSt_dt (s : State) (a : Byte) : (s.setSt a).dt = s.dt := rfl
@[simp] theorem State.setSt_mem (s : State) (a : Byte) : (s.setSt a).mem = s.mem := rfl
@[simp] theorem State.setSt_fb (s : State) (a : Byte) : (s.setSt a).fb = s.fb := rfl
@[simp] theorem State.setSt_displayChanged (s : State) (a : Byte) : (s.setSt a).displayChanged = s.displayChanged := rfl
@[simp] theorem State.setSt_soundActive (s : State) (a : Byte) : (s.setSt a).soundActive = s.soundActive := rfl
@[simp] theorem State.setSt_waitActive (s : State) (a : Byte) : (s.setSt a).waitActive = s.waitActive := rfl
@[simp] theorem State.setSt_waitReg (s : State) (a : Byte) : (s.setSt a).waitReg = s.waitReg := rfl
@[simp] theorem State.setSt_prevKeys (s : State) (a : Byte) : (s.setSt a).prevKeys = s.prevKeys := rfl
@[simp] theorem State.setSt_fault (s : State) (a : Byte) : (s.setSt a).fault = s.fault := rfl
@[simp] theorem State.setSt_cfg (s : State) (a : Byte) : (s.setSt a).cfg = s.cfg := rfl
@[simp] theorem State.setSt_env (s : State) (a : Byte) : (s.setSt a).env = s.env := rfl
@[simp] theorem State.setSt_getV (s : State) (a : Byte) (r : Nibble) : (s.setSt a).getV r = s.getV r := rfl
@[simp] theorem State.setSt_readByte (s : State) (a : Byte) (k : Nat) : (s.setSt a).readByte k = s.readByte k := rfl

/-! setMem -/

@[simp] theorem State.setMem_mem (s : State) (a : List Host.Cell) : (s.setMem a).mem = a := rfl
@[simp] theorem State.setMem_v (s : State) (a : List Host.Cell) : (s.setMem a).v = s.v := rfl
@[simp] theorem State.setMem_pc (s : State) (a : List Host.Cell) : (s.setMem a).pc = s.pc := rfl
@[simp] theorem State.setMem_i (s : State) (a : List Host.Cell) : (s.setMem a).i = s.i := rfl
@[simp] theorem State.setMem_stack (s : State) (a : List Host.Cell) : (s.setMem a).stack = s.stack := rfl
@[simp] theorem State.setMem_sp (s : State) (a : List Host.Cell) : (s.setMem a).sp = s.sp := rfl
@[simp] theorem State.setMem_dt (s : State) (a : List Host.Cell) : (s.setMem a).dt = s.dt := rfl
@[simp] theorem State.setMem_st (s : State) (a : List Host.Cell) : (s.setMem a).st = s.st := rfl
@[simp] theorem State.setMem_fb (s : State) (a : List Host.Cell) : (s.setMem a).fb = s.fb := rfl
@[simp] theorem State.setMem_displayChanged (s : State) (a : List Host.Cell) : (s.setMem a).displayChanged = s.displayChanged := rfl
@[simp] theorem State.setMem_soundActive (s : State) (a : List Host.Cell) : (s.setMem a).soundActive = s.soundActive := rfl
@[simp] theorem State.setMem_waitActive (s : State) (a : List Host.Cell) : (s.setMem a).waitActive = s.waitActive := rfl
@[simp] theorem State.setMem_waitReg (s : State) (a : List Host.Cell) : (s.setMem a).waitReg = s.waitReg := rfl
@[simp] theorem State.setMem_prevKeys (s : State) (a : List Host.Cell) : (s.setMem a).prevKeys = s.prevKeys := rfl
@[simp] theorem State.setMem_fault (s : State) (a : List Host.Cell) : (s.setMem a).fault = s.fault := rfl
@[simp] theorem State.setMem_cfg (s : State) (a : List Host.Cell) : (s.setMem a).cfg = s.cfg := rfl
@[simp] theorem State.setMem_env (s : State) (a : List Host.Cell) : (s.setMem a).env = s.env := rfl
@[simp] theorem State.setMem_getV (s : State) (a : List Host.Cell) (r : Nibble) : (s.setMem a).getV r = s.getV r := rfl

/-! setFb -/

@[simp] theorem State.setFb_fb (s : State) (a : Framebuffer) : (s.setFb a).fb = a := rfl
@[simp] theorem State.setFb_v (s : State) (a : Framebuffer) : (s.setFb a).v = s.v := rfl
@[simp] theorem State.setFb_pc (s : State) (a : Framebuffer) : (s.setFb a).pc = s.pc := rfl
@[simp] theorem State.setFb_i (s : State) (a : Framebuffer) : (s.setFb a).i = s.i := rfl
@[simp] theorem State.setFb_stack (s : State) (a : Framebuffer) : (s.setFb a).stack = s.stack := rfl
@[simp] theorem State.setFb_sp (s : State) (a : Framebuffer) : (s.setFb a).sp = s.sp := rfl
@[simp] theorem State.setFb_dt (s : State) (a : Framebuffer) : (s.setFb a).dt = s.dt := rfl
@[simp] theorem State.setFb_st (s : State) (a : Framebuffer) : (s.setFb a).st = s.st := rfl
@[simp] theorem State.setFb_mem (s : State) (a : Framebuffer) : (s.setFb a).mem = s.mem := rfl
@[simp] theorem State.setFb_displayChanged (s : State) (a : Framebuffer) : (s.setFb a).displayChanged = s.displayChanged := rfl
@[simp] theorem State.setFb_soundActive (s : State) (a : Framebuffer) : (s.setFb a).soundActive = s.soundActive := rfl
@[simp] theorem State.setFb_waitActive (s : State) (a : Framebuffer) : (s.setFb a).waitActive = s.waitActive := rfl
@[simp] theorem State.setFb_waitReg (s : State) (a : Framebuffer) : (s.setFb a).waitReg = s.waitReg := rfl
@[simp] theorem State.setFb_prevKeys (s : State) (a : Framebuffer) : (s.setFb a).prevKeys = s.prevKeys := rfl
@[simp] theorem State.setFb_fault (s : State) (a : Framebuffer) : (s.setFb a).fault = s.fault := rfl
@[simp] theorem State.setFb_cfg (s : State) (a : Framebuffer) : (s.setFb a).cfg = s.cfg := rfl
@[simp] theorem State.setFb_env (s : State) (a : Framebuffer) : (s.setFb a).env = s.env := rfl
@[simp] theorem State.setFb_getV (s : State) (a : Framebuffer) (r : Nibble) : (s.setFb a).getV r = s.getV r := rfl
@[simp] theorem State.setFb_readByte (s : State) (a : Framebuffer) (k : Nat) : (s.setFb a).readByte k = s.readByte k := rfl

/-! setDisplayChanged -/

@[simp] theorem State.setDisplayChanged_displayChanged (s : State) (a : Bool) : (s.setDisplayChanged a).displayChanged = a := rfl
@[simp] theorem State.setDisplayChanged_v (s : State) (a : Bool) : (s.setDisplayChanged a).v = s.v := rfl
@[simp] theorem State.setDisplayChanged_pc (s : State) (a : Bool) : (s.setDisplayChanged a).pc = s.pc := rfl
@[simp] theorem State.setDisplayChanged_i (s : State) (a : Bool) : (s.setDisplayChanged a).i = s.i := rfl
@[simp] theorem State.setDisplayChanged_stack (s : State) (a : Bool) : (s.setDisplayChanged a).stack = s.stack := rfl
@[simp] theorem State.setDisplayChanged_sp (s : State) (a : Bool) : (s.setDisplayChanged a).sp = s.sp := rfl
@[simp] theorem State.setDisplayChanged_dt (s : State) (a : Bool) : (s.setDisplayChanged a).dt = s.dt := rfl
@[simp] theorem State.setDisplayChanged_st (s : State) (a : Bool) : (s.setDisplayChanged a).st = s.st := rfl
@[simp] theorem State.setDisplayChanged_mem (s : State) (a : Bool) : (s.setDisplayChanged a).mem = s.mem := rfl
@[simp] theorem State.setDisplayChanged_fb (s : State) (a : Bool) : (s.setDisplayChanged a).fb = s.fb := rfl
@[simp] theorem State.setDisplayChanged_soundActive (s : State) (a : Bool) : (s.setDisplayChanged a).soundActive = s.soundActive := rfl
@[simp] theorem State.setDisplayChanged_waitActive (s : State) (a : Bool) : (s.setDisplayChanged a).waitActive = s.waitActive := rfl
@[simp] theorem State.setDisplayChanged_waitReg (s : State) (a : Bool) : (s.setDisplayChanged a).waitReg = s.waitReg := rfl
@[simp] theorem State.setDisplayChanged_prevKeys (s : State) (a : Bool) : (s.setDisplayChanged a).prevKeys = s.prevKeys := rfl
@[simp] theorem State.setDisplayChanged_fault (s : State) (a : Bool) : (s.setDisplayChanged a).fault = s.fault := rfl
@[simp] theorem State.setDisplayChanged_cfg (s : State) (a : Bool) : (s.setDisplayChanged a).cfg = s.cfg := rfl
@[simp] theorem State.setDisplayChanged_env (s : State) (a : Bool) : (s.setDisplayChanged a).env = s.env := rfl
@[simp] theorem State.setDisplayChanged_getV (s : State) (a : Bool) (r : Nibble) : (s.setDisplayChanged a).getV r = s.getV r := rfl
@[simp] theorem State.setDisplayChanged_readByte (s : State) (a : Bool) (k : Nat) : (s.setDisplayChanged a).readByte k = s.readByte k := rfl

/-! setSoundActive -/

@[simp] theorem State.setSoundActive_soundActive (s : State) (a : Bool) : (s.setSoundActive a).soundActive = a := rfl
@[simp] theorem State.setSoundActive_v (s : State) (a : Bool) : (s.setSoundActive a).v = s.v := rfl
@[simp] theorem State.setSoundActive_pc (s : State) (a : Bool) : (s.setSoundActive a).pc = s.pc := rfl
@[simp] theorem State.setSoundActive_i (s : State) (a : Bool) : (s.setSoundActive a).i = s.i := rfl
@[simp] theorem State.setSoundActive_stack (s : State) (a : Bool) : (s.setSoundActive a).stack = s.stack := rfl
@[simp] theorem State.setSoundActive_sp (s : State) (a : Bool) : (s.setSoundActive a).sp = s.sp := rfl
@[simp] theorem State.setSoundActive_dt (s : State) (a : Bool) : (s.setSoundActive a).dt = s.dt := rfl
@[simp] theorem State.setSoundActive_st (s : State) (a : Bool) : (s.setSoundActive a).st = s.st := rfl
@[simp] theorem State.setSoundActive_mem (s : State) (a : Bool) : (s.setSoundActive a).mem = s.mem := rfl
@[simp] theorem State.setSoundActive_fb (s : State) (a : Bool) : (s.setSoundActive a).fb = s.fb := rfl
@[simp] theorem State.setSoundActive_displayChanged (s : State) (a : Bool) : (s.setSoundActive a).displayChanged = s.displayChanged := rfl
@[simp] theorem State.setSoundActive_waitActive (s : State) (a : Bool) : (s.setSoundActive a).waitActive = s.waitActive := rfl
@[simp] theorem State.setSoundActive_waitReg (s : State) (a : Bool) : (s.setSoundActive a).waitReg = s.waitReg := rfl
@[simp] theorem State.setSoundActive_prevKeys (s : State) (a : Bool) : (s.setSoundActive a).prevKeys = s.prevKeys := rfl
@[simp] theorem State.setSoundActive_fault (s : State) (a : Bool) : (s.setSoundActive a).fault = s.fault := rfl
@[simp] theorem State.setSoundActive_cfg (s : State) (a : Bool) : (s.setSoundActive a).cfg = s.cfg := rfl
@[simp] theorem State.setSoundActive_env (s : State) (a : Bool) : (s.setSoundActive a).env = s.env := rfl
@[simp] theorem State.setSoundActive_getV (s : State) (a : Bool) (r : Nibble) : (s.setSoundActive a).getV r = s.getV r := rfl
@[simp] theorem State.setSoundActive_readByte (s : State) (a : Bool) (k : Nat) : (s.setSoundActive a).readByte k = s.readByte k := rfl

/-! setWaitActive -/

@[simp] theorem State.setWaitActive_waitActive (s : State) (a : Bool) : (s.setWaitActive a).waitActive = a := rfl
@[simp] theorem State.setWaitActive_v (s : State) (a : Bool) : (s.setWaitActive a).v = s.v := rfl
@[simp] theorem State.setWaitActive_pc (s : State) (a : Bool) : (s.setWaitActive a).pc = s.pc := rfl
@[simp] theorem State.setWaitActive_i (s : State) (a : Bool) : (s.setWaitActive a).i = s.i := rfl
@[simp] theorem State.setWaitActive_stack (s : State) (a : Bool) : (s.setWaitActive a).stack = s.stack := rfl
@[simp] theorem State.setWaitActive_sp (s : State) (a : Bool) : (s.setWaitActive a).sp = s.sp := rfl
@[simp] theorem State.setWaitActive_dt (s : State) (a : Bool) : (s.setWaitActive a).dt = s.dt := rfl
@[simp] theorem State.setWaitActive_st (s : State) (a : Bool) : (s.setWaitActive a).st = s.st := rfl
@[simp] theorem State.setWaitActive_mem (s : State) (a : Bool) : (s.setWaitActive a).mem = s.mem := rfl
@[simp] theorem State.setWaitActive_fb (s : State) (a : Bool) : (s.setWaitActive a).fb = s.fb := rfl
@[simp] theorem State.setWaitActive_displayChanged (s : State) (a : Bool) : (s.setWaitActive a).displayChanged = s.displayChanged := rfl
@[simp] theorem State.setWaitActive_soundActive (s : State) (a : Bool) : (s.setWaitActive a).soundActive = s.soundActive := rfl
@[simp] theorem State.setWaitActive_waitReg (s : State) (a : Bool) : (s.setWaitActive a).waitReg = s.waitReg := rfl
@[simp] theorem State.setWaitActive_prevKeys (s : State) (a : Bool) : (s.setWaitActive a).prevKeys = s.prevKeys := rfl
@[simp] theorem State.setWaitActive_fault (s : State) (a : Bool) : (s.setWaitActive a).fault = s.fault := rfl
@[simp] theorem State.setWaitActive_cfg (s : State) (a : Bool) : (s.setWaitActive a).cfg = s.cfg := rfl
@[simp] theorem State.setWaitActive_env (s : State) (a : Bool) : (s.setWaitActive a).env = s.env := rfl
@[simp] theorem State.setWaitActive_getV (s : State) (a : Bool) (r : Nibble) : (s.setWaitActive a).getV r = s.getV r := rfl
@[simp] theorem State.setWaitActive_readByte (s : State) (a : Bool) (k : Nat) : (s.setWaitActive a).readByte k = s.readByte k := rfl

/-! setWaitReg -/

@[simp] theorem State.setWaitReg_waitReg (s : State) (a : Nibble) : (s.setWaitReg a).waitReg = a := rfl
@[simp] theorem State.setWaitReg_v (s : State) (a : Nibble) : (s.setWaitReg a).v = s.v := rfl
@[simp] theorem State.setWaitReg_pc (s : State) (a : Nibble) : (s.setWaitReg a).pc = s.pc := rfl
@[simp] theorem State.setWaitReg_i (s : State) (a : Nibble) : (s.setWaitReg a).i = s.i := rfl
@[simp] theorem State.setWaitReg_stack (s : State) (a : Nibble) : (s.setWaitReg a).stack = s.stack := rfl
@[simp] theorem State.setWaitReg_sp (s : State) (a : Nibble) : (s.setWaitReg a).sp = s.sp := rfl
@[simp] theorem State.setWaitReg_dt (s : State) (a : Nibble) : (s.setWaitReg a).dt = s.dt := rfl
@[simp] theorem State.setWaitReg_st (s : State) (a : Nibble) : (s.setWaitReg a).st = s.st := rfl
@[simp] theorem State.setWaitReg_mem (s : State) (a : Nibble) : (s.setWaitReg a).mem = s.mem := rfl
@[simp] theorem State.setWaitReg_fb (s : State) (a : Nibble) : (s.setWaitReg a).fb = s.fb := rfl
@[simp] theorem State.setWaitReg_displayChanged (s : State) (a : Nibble) : (s.setWaitReg a).displayChanged = s.displayChanged := rfl
@[simp] theorem State.setWaitReg_soundActive (s : State) (a : Nibble) : (s.setWaitReg a).soundActive = s.soundActive := rfl
@[simp] theorem State.setWaitReg_waitActive (s : State) (a : Nibble) : (s.setWaitReg a).waitActive = s.waitActive := rfl
@[simp] theorem State.setWaitReg_prevKeys (s : State) (a : Nibble) : (s.setWaitReg a).prevKeys = s.prevKeys := rfl
@[simp] theorem State.setWaitReg_fault (s : State) (a : Nibble) : (s.setWaitReg a).fault = s.fault := rfl
@[simp] theorem State.setWaitReg_cfg (s : State) (a : Nibble) : (s.setWaitReg a).cfg = s.cfg := rfl
@[simp] theorem State.setWaitReg_env (s : State) (a : Nibble) : (s.setWaitReg a).env = s.env := rfl
@[simp] theorem State.setWaitReg_getV (s : State) (a : Nibble) (r : Nibble) : (s.setWaitReg a).getV r = s.getV r := rfl
@[simp] theorem State.setWaitReg_readByte (s : State) (a : Nibble) (k : Nat) : (s.setWaitReg a).readByte k = s.readByte k := rfl

/-! setPrevKeys -/

@[simp] theorem State.setPrevKeys_prevKeys (s : State) (a : Word) : (s.setPrevKeys a).prevKeys = a := rfl
@[simp] theorem State.setPrevKeys_v (s : State) (a : Word) : (s.setPrevKeys a).v = s.v := rfl
@[simp] theorem State.setPrevKeys_pc (s : State) (a : Word) : (s.setPrevKeys a).pc = s.pc := rfl
@[simp] theorem State.setPrevKeys_i (s : State) (a : Word) : (s.setPrevKeys a).i = s.i := rfl
@[simp] theorem State.setPrevKeys_stack (s : State) (a : Word) : (s.setPrevKeys a).stack = s.stack := rfl
@[simp] theorem State.setPrevKeys_sp (s : State) (a : Word) : (s.setPrevKeys a).sp = s.sp := rfl
@[simp] theorem State.setPrevKeys_dt (s : State) (a : Word) : (s.setPrevKeys a).dt = s.dt := rfl
@[simp] theorem State.setPrevKeys_st (s : State) (a : Word) : (s.setPrevKeys a).st = s.st := rfl
@[simp] theorem State.setPrevKeys_mem (s : State) (a : Word) : (s.setPrevKeys a).mem = s.mem := rfl
@[simp] theorem State.setPrevKeys_fb (s : State) (a : Word) : (s.setPrevKeys a).fb = s.fb := rfl
@[simp] theorem State.setPrevKeys_displayChanged (s : State) (a : Word) : (s.setPrevKeys a).displayChanged = s.displayChanged := rfl
@[simp] theorem State.setPrevKeys_soundActive (s : State) (a : Word) : (s.setPrevKeys a).soundActive = s.soundActive := rfl
@[simp] theorem State.setPrevKeys_waitActive (s : State) (a : Word) : (s.setPrevKeys a).waitActive = s.waitActive := rfl
@[simp] theorem State.setPrevKeys_waitReg (s : State) (a : Word) : (s.setPrevKeys a).waitReg = s.waitReg := rfl
@[simp] theorem State.setPrevKeys_fault (s : State) (a : Word) : (s.setPrevKeys a).fault = s.fault := rfl
@[simp] theorem State.setPrevKeys_cfg (s : State) (a : Word) : (s.setPrevKeys a).cfg = s.cfg := rfl
@[simp] theorem State.setPrevKeys_env (s : State) (a : Word) : (s.setPrevKeys a).env = s.env := rfl
@[simp] theorem State.setPrevKeys_getV (s : State) (a : Word) (r : Nibble) : (s.setPrevKeys a).getV r = s.getV r := rfl
@[simp] theorem State.setPrevKeys_readByte (s : State) (a : Word) (k : Nat) : (s.setPrevKeys a).readByte k = s.readByte k := rfl

/-! setFault -/

@[simp] theorem State.setFault_fault (s : State) (a : Option MachineError) : (s.setFault a).fault = a := rfl
@[simp] theorem State.setFault_v (s : State) (a : Option MachineError) : (s.setFault a).v = s.v := rfl
@[simp] theorem State.setFault_pc (s : State) (a : Option MachineError) : (s.setFault a).pc = s.pc := rfl
@[simp] theorem State.setFault_i (s : State) (a : Option MachineError) : (s.setFault a).i = s.i := rfl
@[simp] theorem State.setFault_stack (s : State) (a : Option MachineError) : (s.setFault a).stack = s.stack := rfl
@[simp] theorem State.setFault_sp (s : State) (a : Option MachineError) : (s.setFault a).sp = s.sp := rfl
@[simp] theorem State.setFault_dt (s : State) (a : Option MachineError) : (s.setFault a).dt = s.dt := rfl
@[simp] theorem State.setFault_st (s : State) (a : Option MachineError) : (s.setFault a).st = s.st := rfl
@[simp] theorem State.setFault_mem (s : State) (a : Option MachineError) : (s.setFault a).mem = s.mem := rfl
@[simp] theorem State.setFault_fb (s : State) (a : Option MachineError) : (s.setFault a).fb = s.fb := rfl
@[simp] theorem State.setFault_displayChanged (s : State) (a : Option MachineError) : (s.setFault a).displayChanged = s.displayChanged := rfl
@[simp] theorem State.setFault_soundActive (s : State) (a : Option MachineError) : (s.setFault a).soundActive = s.soundActive := rfl
@[simp] theorem State.setFault_waitActive (s : State) (a : Option MachineError) : (s.setFault a).waitActive = s.waitActive := rfl
@[simp] theorem State.setFault_waitReg (s : State) (a : Option MachineError) : (s.setFault a).waitReg = s.waitReg := rfl
@[simp] theorem State.setFault_prevKeys (s : State) (a : Option MachineError) : (s.setFault a).prevKeys = s.prevKeys := rfl
@[simp] theorem State.setFault_cfg (s : State) (a : Option MachineError) : (s.setFault a).cfg = s.cfg := rfl
@[simp] theorem State.setFault_env (s : State) (a : Option MachineError) : (s.setFault a).env = s.env := rfl
@[simp] theorem State.setFault_getV (s : State) (a : Option MachineError) (r : Nibble) : (s.setFault a).getV r = s.getV r := rfl
@[simp] theorem State.setFault_readByte (s : State) (a : Option MachineError) (k : Nat) : (s.setFault a).readByte k = s.readByte k := rfl

/-! setEnv -/

@[simp] theorem State.setEnv_env (s : State) (a : Env) : (s.setEnv a).env = a := rfl
@[simp] theorem State.setEnv_v (s : State) (a : Env) : (s.setEnv a).v = s.v := rfl
@[simp] theorem State.setEnv_pc (s : State) (a : Env) : (s.setEnv a).pc = s.pc := rfl
@[simp] theorem State.setEnv_i (s : State) (a : Env) : (s.setEnv a).i = s.i := rfl
@[simp] theorem State.setEnv_stack (s : State) (a : Env) : (s.setEnv a).stack = s.stack := rfl
@[simp] theorem State.setEnv_sp (s : State) (a : Env) : (s.setEnv a).sp = s.sp := rfl
@[simp] theorem State.setEnv_dt (s : State) (a : Env) : (s.setEnv a).dt = s.dt := rfl
@[simp] theorem State.setEnv_st (s : State) (a : Env) : (s.setEnv a).st = s.st := rfl
@[simp] theorem State.setEnv_mem (s : State) (a : Env) : (s.setEnv a).mem = s.mem := rfl
@[simp] theorem State.setEnv_fb (s : State) (a : Env) : (s.setEnv a).fb = s.fb := rfl
@[simp] theorem State.setEnv_displayChanged (s : State) (a : Env) : (s.setEnv a).displayChanged = s.displayChanged := rfl
@[simp] theorem State.setEnv_soundActive (s : State) (a : Env) : (s.setEnv a).soundActive = s.soundActive := rfl
@[simp] theorem State.setEnv_waitActive (s : State) (a : Env) : (s.setEnv a).waitActive = s.waitActive := rfl
@[simp] theorem State.setEnv_waitReg (s : State) (a : Env) : (s.setEnv a).waitReg = s.waitReg := rfl
@[simp] theorem State.setEnv_prevKeys (s : State) (a : Env) : (s.setEnv a).prevKeys = s.prevKeys := rfl
@[simp] theorem State.setEnv_fault (s : State) (a : Env) : (s.setEnv a).fault = s.fault := rfl
@[simp] theorem State.setEnv_cfg (s : State) (a : Env) : (s.setEnv a).cfg = s.cfg := rfl
@[simp] theorem State.setEnv_getV (s : State) (a : Env) (r : Nibble) : (s.setEnv a).getV r = s.getV r := rfl
@[simp] theorem State.setEnv_readByte (s : State) (a : Env) (k : Nat) : (s.setEnv a).readByte k = s.readByte k := rfl

/-! setV -/

@[simp] theorem State.setV_pc (s : State) (r : Nibble) (b : Byte) : (s.setV r b).pc = s.pc := rfl
@[simp] theorem State.setV_i (s : State) (r : Nibble) (b : Byte) : (s.setV r b).i = s.i := rfl
@[simp] theorem State.setV_stack (s : State) (r : Nibble) (b : Byte) : (s.setV r b).stack = s.stack := rfl
@[simp] theorem State.setV_sp (s : State) (r : Nibble) (b : Byte) : (s.setV r b).sp = s.sp := rfl
@[simp] theorem State.setV_dt (s : State) (r : Nibble) (b : Byte) : (s.setV r b).dt = s.dt := rfl
@[simp] theorem State.setV_st (s : State) (r : Nibble) (b : Byte) : (s.setV r b).st = s.st := rfl
@[simp] theorem State.setV_mem (s : State) (r : Nibble) (b : Byte) : (s.setV r b).mem = s.mem := rfl
@[simp] theorem State.setV_fb (s : State) (r : Nibble) (b : Byte) : (s.setV r b).fb = s.fb := rfl
@[simp] theorem State.setV_displayChanged (s : State) (r : Nibble) (b : Byte) : (s.setV r b).displayChanged = s.displayChanged := rfl
@[simp] theorem State.setV_soundActive (s : State) (r : Nibble) (b : Byte) : (s.setV r b).soundActive = s.soundActive := rfl
@[simp] theorem State.setV_waitActive (s : State) (r : Nibble) (b : Byte) : (s.setV r b).waitActive = s.waitActive := rfl
@[simp] theorem State.setV_waitReg (s : State) (r : Nibble) (b : Byte) : (s.setV r b).waitReg = s.waitReg := rfl
@[simp] theorem State.setV_prevKeys (s : State) (r : Nibble) (b : Byte) : (s.setV r b).prevKeys = s.prevKeys := rfl
@[simp] theorem State.setV_fault (s : State) (r : Nibble) (b : Byte) : (s.setV r b).fault = s.fault := rfl
@[simp] theorem State.setV_cfg (s : State) (r : Nibble) (b : Byte) : (s.setV r b).cfg = s.cfg := rfl
@[simp] theorem State.setV_env (s : State) (r : Nibble) (b : Byte) : (s.setV r b).env = s.env := rfl
@[simp] theorem State.setV_readByte (s : State) (r : Nibble) (b : Byte) (k : Nat) : (s.setV r b).readByte k = s.readByte k := rfl

/-! writeByte -/

@[simp] theorem State.writeByte_v (s : State) (a : Nat) (b : Byte) : (s.writeByte a b).v = s.v := rfl
@[simp] theorem State.writeByte_pc (s : State) (a : Nat) (b : Byte) : (s.writeByte a b).pc = s.pc := rfl
@[simp] theorem State.writeByte_i (s : State) (a : Nat) (b : Byte) : (s.writeByte a b).i = s.i := rfl
@[simp] theorem State.writeByte_stack (s : State) (a : Nat) (b : Byte) : (s.writeByte a b).stack = s.stack := rfl
@[simp] theorem State.writeByte_sp (s : State) (a : Nat) (b : Byte) : (s.writeByte a b).sp = s.sp := rfl
@[simp] theorem State.writeByte_dt (s : State) (a : Nat) (b : Byte) : (s.writeByte a b).dt = s.dt := rfl
@[simp] theorem State.writeByte_st (s : State) (a : Nat) (b : Byte) : (s.writeByte a b).st = s.st := rfl
@[simp] theorem State.writeByte_fb (s : State) (a : Nat) (b : Byte) : (s.writeByte a b).fb = s.fb := rfl
@[simp] theorem State.writeByte_displayChanged (s : State) (a : Nat) (b : Byte) : (s.writeByte a b).displayChanged = s.displayChanged := rfl
@[simp] theorem State.writeByte_soundActive (s : State) (a : Nat) (b : Byte) : (s.writeByte a b).soundActive = s.soundActive := rfl
@[simp] theorem State.writeByte_waitActive (s : State) (a : Nat) (b : Byte) : (s.writeByte a b).waitActive = s.waitActive := rfl
@[simp] theorem State.writeByte_waitReg (s : State) (a : Nat) (b : Byte) : (s.writeByte a b).waitReg = s.waitReg := rfl
@[simp] theorem State.writeByte_prevKeys (s : State) (a : Nat) (b : Byte) : (s.writeByte a b).prevKeys = s.prevKeys := rfl
@[simp] theorem State.writeByte_fault (s : State) (a : Nat) (b : Byte) : (s.writeByte a b).fault = s.fault := rfl
@[simp] theorem State.writeByte_cfg (s : State) (a : Nat) (b : Byte) : (s.writeByte a b).cfg = s.cfg := rfl
@[simp] theorem State.writeByte_env (s : State) (a : Nat) (b : Byte) : (s.writeByte a b).env = s.env := rfl
@[simp] theorem State.writeByte_getV (s : State) (a : Nat) (b : Byte) (r : Nibble) : (s.writeByte a b).getV r = s.getV r := rfl

end Sys2Proof.Machine
end

