-- ==== Sys2Proof/Laws/Memory.lean ====
section
/-! SUPPORT. Memory: read after write, the canonical form is kept, and one lemma that says all that resolving a range of
addresses can give. -/

namespace Sys2Proof.Machine

/-! ## Cells -/

/-- A write leaves every other address alone. -/
theorem Memory.lookup_insert_ne (d d' : Byte) (a a' : Nat) (b : Byte) (m : List Host.Cell) (h : a' ≠ a) :
    Memory.lookup d' (Memory.insert d a b m) a' = Memory.lookup d' m a' := by
  induction m with
  | nil =>
    simp only [Memory.insert]
    split <;> simp [Memory.lookup, Ne.symm h]
  | cons c m ih =>
    simp only [Memory.insert]
    split
    · simp only [Memory.lookup, ih]
    · split
      · rename_i h1 h2
        subst h2
        split <;> simp [Memory.lookup, Ne.symm h]
      · split <;> simp [Memory.lookup, Ne.symm h]

/-- An address above every listed one, or below, is not found. -/
theorem Memory.lookup_of_forall_ne (d : Byte) (a : Nat) (m : List Host.Cell) (h : ∀ c ∈ m, c.1 ≠ a) :
    Memory.lookup d m a = d := by
  induction m with
  | nil => rfl
  | cons c m ih =>
    simp only [List.mem_cons, forall_eq_or_imp] at h
    simp [Memory.lookup, h.1, ih h.2]

/-- In rising order, a write is read back. -/
theorem Memory.lookup_insert_self (d : Byte) (a : Nat) (b : Byte) (m : List Host.Cell)
    (hm : m.Pairwise (fun c e => c.1 < e.1)) : Memory.lookup d (Memory.insert d a b m) a = b := by
  induction m with
  | nil =>
    simp only [Memory.insert]
    split <;> simp_all [Memory.lookup]
  | cons c m ih =>
    rw [List.pairwise_cons] at hm
    simp only [Memory.insert]
    split
    · rename_i h1
      simp [Memory.lookup, Nat.ne_of_lt h1, ih hm.2]
    · split
      · rename_i h1 h2
        split
        · rename_i hb
          rw [hb, Memory.lookup_of_forall_ne]
          intro e he
          have := hm.1 e he
          omega
        · simp [Memory.lookup]
      · rename_i h1 h2
        split
        · rename_i hb
          rw [hb, Memory.lookup_of_forall_ne]
          intro e he
          rcases List.mem_cons.mp he with rfl | he
          · exact h2
          · have := hm.1 e he
            omega
        · simp [Memory.lookup]

theorem Memory.mem_insert {d : Byte} {a : Nat} {b : Byte} {m : List Host.Cell} {c : Host.Cell}
    (h : c ∈ Memory.insert d a b m) : c ∈ m ∨ (c = (a, b) ∧ b ≠ d) := by
  induction m with
  | nil =>
    simp only [Memory.insert] at h
    split at h <;> simp_all
  | cons e m ih =>
    simp only [Memory.insert] at h
    split at h
    · rcases List.mem_cons.mp h with rfl | h
      · simp
      · rcases ih h with h | h
        · simp [h]
        · exact .inr h
    · split at h
      · split at h
        · simp [h]
        · rcases List.mem_cons.mp h with rfl | h
          · exact .inr ⟨rfl, by assumption⟩
          · simp [h]
      · split at h
        · exact .inl h
        · rcases List.mem_cons.mp h with rfl | h
          · exact .inr ⟨rfl, by assumption⟩
          · exact .inl h

/-- A write keeps the cells in rising order. -/
theorem Memory.insert_rising (d : Byte) (a : Nat) (b : Byte) (m : List Host.Cell)
    (hm : m.Pairwise (fun c e => c.1 < e.1)) : (Memory.insert d a b m).Pairwise (fun c e => c.1 < e.1) := by
  induction m with
  | nil =>
    simp only [Memory.insert]
    split <;> simp
  | cons c m ih =>
    have hc := (List.pairwise_cons.mp hm).1
    have ht := (List.pairwise_cons.mp hm).2
    simp only [Memory.insert]
    split
    · rename_i h1
      refine List.pairwise_cons.mpr ⟨fun e he => ?_, ih ht⟩
      rcases Memory.mem_insert he with he | ⟨rfl, -⟩
      · exact hc e he
      · exact h1
    · split
      · rename_i h1 h2
        split
        · exact ht
        · exact List.pairwise_cons.mpr ⟨fun e he => h2 ▸ hc e he, ht⟩
      · rename_i h1 h2
        split
        · exact hm
        · refine List.pairwise_cons.mpr ⟨fun e he => ?_, hm⟩
          rcases List.mem_cons.mp he with rfl | he
          · show a < e.1
            omega
          · have := hc e he
            show a < e.1
            omega

/-- A write below 4096 keeps the canonical form. -/
theorem Memory.insert_wf (font : Vector Byte 80) (a : Nat) (b : Byte) (m : List Host.Cell) (ha : a < 4096)
    (hm : Memory.wf font m) : Memory.wf font (Memory.insert (Memory.unlisted font a) a b m) := by
  refine ⟨Memory.insert_rising _ _ _ _ hm.1, fun c hc => ?_⟩
  rcases Memory.mem_insert hc with hc | ⟨rfl, hb⟩
  · exact hm.2 c hc
  · exact ⟨ha, hb⟩

/-! ## One byte of a state -/

theorem State.readByte_writeByte_self (s : State) (a : Nat) (b : Byte) (h : s.memOk) :
    (s.writeByte a b).readByte a = b :=
  Memory.lookup_insert_self _ _ _ _ h.1

theorem State.readByte_writeByte_ne (s : State) {a k : Nat} (b : Byte) (h : k ≠ a) :
    (s.writeByte a b).readByte k = s.readByte k :=
  Memory.lookup_insert_ne _ _ _ _ _ _ h

theorem State.writeByte_memOk (s : State) (a : Nat) (b : Byte) (ha : a < 4096) (h : s.memOk) :
    (s.writeByte a b).memOk :=
  Memory.insert_wf _ _ _ _ ha h

theorem State.reset_memOk : State.reset.memOk := by decide

/-! ## Stores -/

/-- A run of stores is the state with other memory cells. -/
theorem State.storeBytes_eq_setMem (s : State) (as : List Nat) (bs : List Byte) :
    s.storeBytes as bs = s.setMem (s.storeBytes as bs).mem := by
  induction as generalizing s bs with
  | nil => cases bs <;> rfl
  | cons a as ih =>
    cases bs with
    | nil => rfl
    | cons b bs =>
      rw [State.storeBytes, ih]
      rfl

theorem State.storeBytes_readByte_of_not_mem (s : State) (as : List Nat) (bs : List Byte) (k : Nat) (h : k ∉ as) :
    (s.storeBytes as bs).readByte k = s.readByte k := by
  induction as generalizing s bs with
  | nil => cases bs <;> rfl
  | cons a as ih =>
    cases bs with
    | nil => rfl
    | cons b bs =>
      simp only [List.mem_cons, not_or] at h
      rw [State.storeBytes, ih _ _ h.2, State.readByte_writeByte_ne _ _ h.1]

theorem State.storeBytes_memOk (s : State) (as : List Nat) (bs : List Byte) (ha : ∀ a ∈ as, a < 4096) (h : s.memOk) :
    (s.storeBytes as bs).memOk := by
  induction as generalizing s bs with
  | nil => cases bs <;> exact h
  | cons a as ih =>
    cases bs with
    | nil => exact h
    | cons b bs =>
      simp only [List.mem_cons, forall_eq_or_imp] at ha
      exact ih _ _ ha.2 (State.writeByte_memOk _ _ _ ha.1 h)

/-- Stores to distinct addresses are all read back. -/
theorem State.storeBytes_readByte (s : State) (as : List Nat) (bs : List Byte) (hd : as.Nodup)
    (hl : as.length = bs.length) (ha : ∀ a ∈ as, a < 4096) (h : s.memOk) (k : Nat) (hk : k < as.length) :
    (s.storeBytes as bs).readByte as[k] = bs[k] := by
  induction as generalizing s bs k with
  | nil => simp at hk
  | cons a as ih =>
    cases bs with
    | nil => simp at hl
    | cons b bs =>
      simp only [List.mem_cons, forall_eq_or_imp] at ha
      rw [List.nodup_cons] at hd
      cases k with
      | zero =>
        simp only [State.storeBytes, List.getElem_cons_zero]
        rw [State.storeBytes_readByte_of_not_mem _ _ _ _ hd.1, State.readByte_writeByte_self _ _ _ h]
      | succ k =>
        simp only [State.storeBytes, List.getElem_cons_succ]
        exact ih _ _ hd.2 (by simpa using hl) ha.2 (State.writeByte_memOk _ _ _ ha.1 h) _ _

/-- LOAD's image is the state with other memory cells. -/
theorem State.storeImage_eq_setMem (s : State) (a : Nat) (bs : List Byte) :
    s.storeImage a bs = s.setMem (s.storeImage a bs).mem := by
  induction bs generalizing s a with
  | nil => rfl
  | cons b bs ih =>
    rw [State.storeImage, ih]
    rfl

theorem State.storeImage_memOk (s : State) (a : Nat) (bs : List Byte) (hb : a + bs.length ≤ 4096) (h : s.memOk) :
    (s.storeImage a bs).memOk := by
  induction bs generalizing s a with
  | nil => exact h
  | cons b bs ih =>
    simp only [List.length_cons] at hb
    exact ih _ _ (by omega) (State.writeByte_memOk _ _ _ (by omega) h)

theorem State.storeImage_readByte_below (s : State) (a : Nat) (bs : List Byte) (k : Nat) (hk : k < a) :
    (s.storeImage a bs).readByte k = s.readByte k := by
  induction bs generalizing s a with
  | nil => rfl
  | cons b bs ih =>
    rw [State.storeImage, ih _ _ (by omega), State.readByte_writeByte_ne _ _ (by omega)]

/-- After an image is stored every byte of it is at its place, and every other byte is as before. -/
theorem State.storeImage_readByte (s : State) (a : Nat) (bs : List Byte) (hb : a + bs.length ≤ 4096) (h : s.memOk)
    (k : Nat) :
    (s.storeImage a bs).readByte k = if hk : a ≤ k ∧ k - a < bs.length then bs[k - a]'hk.2 else s.readByte k := by
  induction bs generalizing s a with
  | nil => simp [State.storeImage]
  | cons b bs ih =>
    simp only [List.length_cons] at hb
    rw [State.storeImage]
    by_cases hka : k = a
    · subst hka
      rw [State.storeImage_readByte_below _ _ _ _ (by omega), State.readByte_writeByte_self _ _ _ h]
      simp
    · rw [ih _ _ (by omega) (State.writeByte_memOk _ _ _ (by omega) h), State.readByte_writeByte_ne _ _ hka]
      by_cases hk : a + 1 ≤ k ∧ k - (a + 1) < bs.length
      · have hk' : a ≤ k ∧ k - a < (b :: bs).length := by
          simp only [List.length_cons]; omega
        rw [dif_pos hk, dif_pos hk']
        have : k - a = (k - (a + 1)) + 1 := by omega
        simp [this]
      · have hk' : ¬ (a ≤ k ∧ k - a < (b :: bs).length) := by
          simp only [List.length_cons]; omega
        rw [dif_neg hk, dif_neg hk']

/-! ## Resolving addresses -/

/-- The addresses base, base + 1, ... of n cells, each modulo 4096. -/
def cellsFrom (base n : Nat) : List Nat := (List.range n).map (fun k => (base + k) % 4096)

@[simp] theorem cellsFrom_length (base n : Nat) : (cellsFrom base n).length = n := by
  simp [cellsFrom]

theorem cellsFrom_getElem (base n k : Nat) (h : k < (cellsFrom base n).length) :
    (cellsFrom base n)[k] = (base + k) % 4096 := by
  simp [cellsFrom]

theorem cellsFrom_lt (base n a : Nat) (h : a ∈ cellsFrom base n) : a < 4096 := by
  simp only [cellsFrom, List.mem_map] at h
  obtain ⟨k, -, rfl⟩ := h
  exact Nat.mod_lt _ (by decide)

theorem cellsFrom_succ (base n : Nat) : cellsFrom base (n + 1) = base % 4096 :: cellsFrom (base + 1) n := by
  simp only [cellsFrom, List.range_succ_eq_map, List.map_cons, List.map_map, Nat.add_zero, List.cons.injEq, true_and]
  exact List.map_congr_left fun k _ => by simp only [Function.comp_apply]; congr 1; omega

/-- At most 4096 consecutive cells are distinct (42_index_memory.md R204: no two addresses coincide). -/
theorem cellsFrom_nodup (base n : Nat) (h : n ≤ 4096) : (cellsFrom base n).Nodup := by
  unfold cellsFrom
  refine List.Nodup.map_on (fun j hj k hk hjk => ?_) List.nodup_range
  simp only [List.mem_range] at hj hk
  omega

/-- All that resolving n addresses from base can give (20_memory.md R53): the cells, or the error of the lowest address
above 0xFFF. -/
theorem resolveRange_eq (p : MemOobPolicy) (base n : Nat) :
    resolveRange p base n =
      if p = .wrap ∨ n = 0 ∨ base + n ≤ 4096 then .ok (cellsFrom base n)
      else .error (.memoryAccessOutOfBounds (max base 4096)) := by
  induction n generalizing base with
  | zero => simp [resolveRange, cellsFrom]
  | succ n ih =>
    simp only [resolveRange, resolve, Config.memorySize]
    by_cases hb : base ≤ 0xFFF
    · have hmod : base % 4096 = base := by omega
      rw [if_pos hb]
      simp only [ih, cellsFrom_succ, hmod]
      by_cases hc : p = .wrap ∨ n = 0 ∨ base + 1 + n ≤ 4096
      · have hc' : p = .wrap ∨ n + 1 = 0 ∨ base + (n + 1) ≤ 4096 := by
          rcases hc with h | h | h
          · exact .inl h
          · right; right; omega
          · right; right; omega
        rw [if_pos hc, if_pos hc']
      · have hc' : ¬ (p = .wrap ∨ n + 1 = 0 ∨ base + (n + 1) ≤ 4096) := by
          simp only [not_or] at hc ⊢
          exact ⟨hc.1, by omega, by omega⟩
        rw [if_neg hc, if_neg hc']
        have : max (base + 1) 4096 = max base 4096 := by omega
        rw [this]
    · rw [if_neg hb]
      cases p with
      | fault =>
        have hc' : ¬ (MemOobPolicy.fault = .wrap ∨ n + 1 = 0 ∨ base + (n + 1) ≤ 4096) := by
          simp only [not_or]
          exact ⟨by decide, by omega, by omega⟩
        rw [if_neg hc']
        have : max base 4096 = base := by omega
        rw [this]
      | wrap =>
        simp only [ih, cellsFrom_succ, true_or, if_true]

end Sys2Proof.Machine
end

