-- ==== Sys2Proof/Laws/Registers.lean ====
section
/-! SUPPORT. What reads of the register file see after each register operation, and the flag computations as numbers. -/

namespace Sys2Proof.Machine

theorem State.getV_setV (s : State) (x r : Nibble) (b : Byte) :
    (s.setV x b).getV r = if r = x then b else s.getV r := by
  simp [State.setV, State.getV, Vector.getElem_set, BitVec.toNat_inj, eq_comm]

@[simp] theorem State.getV_setV_self (s : State) (x : Nibble) (b : Byte) : (s.setV x b).getV x = b := by
  simp [State.getV_setV]

theorem State.getV_setV_ne (s : State) {x r : Nibble} (b : Byte) (h : r ≠ x) :
    (s.setV x b).getV r = s.getV r := by
  simp [State.getV_setV, h]

theorem State.getV_eq_getElem (s : State) (r : Nibble) : s.getV r = s.v[r.toNat]'r.isLt := rfl

/-- Registers below the first one written are unchanged; the byte at offset j lands in register k + j. -/
theorem writeRegs_getElem (bs : List Byte) (k : Nat) (v : Vector Byte 16) (j : Nat) (hj : j < 16) :
    (writeRegs k bs v)[j] = if h : k ≤ j ∧ j - k < bs.length then bs[j - k]'h.2 else v[j] := by
  induction bs generalizing k v with
  | nil => simp [writeRegs]
  | cons b bs ih =>
    rw [writeRegs, ih]
    by_cases hkj : k = j
    · subst hkj
      simp
    · by_cases h : k + 1 ≤ j ∧ j - (k + 1) < bs.length
      · have h' : k ≤ j ∧ j - k < (b :: bs).length := by
          simp only [List.length_cons]; omega
        rw [dif_pos h, dif_pos h']
        have : j - k = (j - (k + 1)) + 1 := by omega
        simp [this]
      · have h' : ¬ (k ≤ j ∧ j - k < (b :: bs).length) := by
          simp only [List.length_cons]; omega
        rw [dif_neg h, dif_neg h', Vector.getElem_setIfInBounds_ne _ hkj]

theorem State.getV_setRegs (s : State) (v : Vector Byte 16) (r : Nibble) :
    (s.setRegs v).getV r = v[r.toNat]'r.isLt := rfl

@[simp] theorem State.regsUpTo_length (s : State) (x : Nibble) : (s.regsUpTo x).length = x.toNat + 1 := by
  have := x.isLt
  simp only [State.regsUpTo, List.length_take, Vector.length_toList]
  omega

theorem State.regsUpTo_getElem (s : State) (x : Nibble) (k : Nat) (h : k < (s.regsUpTo x).length) (hk : k < 16) :
    (s.regsUpTo x)[k] = s.v[k] := by
  simp [State.regsUpTo]

/-! writeRF -/

@[simp] theorem State.writeRF_getV_of_ne (s : State) (x : Nibble) (r : Byte) (f : Bool) (k : Nibble)
    (hx : k ≠ x) (hf : k ≠ 15#4) : (s.writeRF x r f).getV k = s.getV k := by
  unfold State.writeRF
  split <;> simp [State.getV_setV, hx, hf]

theorem State.writeRF_result (s : State) (x : Nibble) (r : Byte) (f : Bool) (hx : x ≠ 15#4) :
    (s.writeRF x r f).getV x = r := by
  unfold State.writeRF
  split <;> simp [State.getV_setV, hx]

theorem State.writeRF_flag (s : State) (x : Nibble) (r : Byte) (f : Bool) (hx : x ≠ 15#4) :
    (s.writeRF x r f).getV 15#4 = flagByte f := by
  unfold State.writeRF
  split <;> simp [State.getV_setV, hx.symm]

/-- Where the destination is VF itself, VF_ORDER says which write is left standing (41_alu.md R150). -/
theorem State.writeRF_vf (s : State) (r : Byte) (f : Bool) :
    (s.writeRF 15#4 r f).getV 15#4 = if s.cfg.vfOrder = .flagLast then flagByte f else r := by
  unfold State.writeRF
  split <;> simp_all

/-- WriteRF touches registers only: it is the state with another register file. -/
theorem State.writeRF_eq_setRegs (s : State) (x : Nibble) (r : Byte) (f : Bool) :
    s.writeRF x r f = s.setRegs (s.writeRF x r f).v := by
  unfold State.writeRF
  split <;> rfl

/-! Flags as numbers -/

@[simp] theorem flagByte_toNat (f : Bool) : (flagByte f).toNat = f.toNat := by
  cases f <;> rfl

@[simp] theorem carryOf_eq_true (a b : Byte) : carryOf a b = true ↔ 256 ≤ a.toNat + b.toNat := by
  simp [carryOf]

@[simp] theorem notBorrowOf_eq_true (a b : Byte) : notBorrowOf a b = true ↔ b.toNat ≤ a.toNat := by
  simp [notBorrowOf]

theorem shrOut_eq (a : Byte) : shrOut a = decide (a.toNat % 2 = 1) := by
  simp [shrOut, BitVec.getLsbD, Nat.testBit_zero]

theorem shlOut_eq (a : Byte) : shlOut a = decide (128 ≤ a.toNat) := by
  revert a; decide

end Sys2Proof.Machine
end

