-- ==== Sys2Proof/Laws/Exec.lean ====
section
/-! SUPPORT. Once for each shared operation and each meaning with more than one way to end: all that it can do. -/

namespace Sys2Proof.Machine

/-! ## The two ends of an instruction -/

theorem complete_eq (d : Directive) (s : State) : complete d s = .next (s.setPc (applyDirective d s.pc)) := rfl

theorem raise_eq (e : MachineError) (s : State) : raise e s = .next (s.setFault (some e)) := rfl

@[simp] theorem applyDirective_advance (pc : Word) : applyDirective .advance pc = pc + 2 := rfl

@[simp] theorem applyDirective_skipNext (pc : Word) : applyDirective .skipNext pc = pc + 4 := rfl

@[simp] theorem applyDirective_jumpTo (a pc : Word) : applyDirective (.jumpTo a) pc = a := rfl

theorem applyDirective_skipIf (c : Bool) (pc : Word) : applyDirective (skipIf c) pc = if c then pc + 4 else pc + 2 := by
  cases c <;> rfl

/-! ## Operands -/

/-- All that KeyIndex can give (40_control_flow.md R121). -/
theorem keyIndex_eq (p : KeyIndexPolicy) (v : Byte) :
    keyIndex p v = if p = .mod16 ∨ v.toNat ≤ 15 then .ok (v.toNat % 16) else .error (.keyIndexOutOfRange v) := by
  unfold keyIndex
  by_cases h : v.toNat ≤ 15
  · rw [if_pos h, if_pos (.inr h), Nat.mod_eq_of_lt (by omega)]
  · cases p <;> simp [h]

@[simp] theorem zextAddr_toNat (nnn : Addr) : (zextAddr nnn).toNat = nnn.toNat := by
  have := nnn.isLt
  simp only [zextAddr, BitVec.toNat_setWidth]
  omega

@[simp] theorem zextByte_toNat (b : Byte) : (zextByte b).toNat = b.toNat := by
  have := b.isLt
  simp only [zextByte, BitVec.toNat_setWidth]
  omega

theorem glyphAddr_toNat (b : Byte) : (glyphAddr b).toNat = b.toNat % 16 * 5 := by
  revert b; decide

@[simp] theorem bcdDigits_length (b : Byte) : (bcdDigits b).length = 3 := rfl

@[simp] theorem loadBytes_length (s : State) (as : List Nat) : (s.loadBytes as).length = as.length := by
  simp [State.loadBytes]

theorem loadBytes_getElem (s : State) (as : List Nat) (k : Nat) (h : k < (s.loadBytes as).length) (hk : k < as.length) :
    (s.loadBytes as)[k] = s.readByte as[k] := by
  simp [State.loadBytes]

/-- One draw takes the first known byte, or counts one free draw (log 5). -/
theorem Env.draw_cases (e : Env) :
    (∃ b bs, e.rands = b :: bs ∧ e.nextRand = b ∧ e.afterDraw = { e with rands := bs }) ∨
      (e.rands = [] ∧ e.nextRand = Config.freeRand e.draws ∧ e.afterDraw = { e with draws := e.draws + 1 }) := by
  cases h : e.rands with
  | nil => exact .inr ⟨rfl, by simp [Env.nextRand, h], by simp [Env.afterDraw, h]⟩
  | cons b bs => exact .inl ⟨b, bs, rfl, by simp [Env.nextRand, h], by simp [Env.afterDraw, h]⟩

/-! ## Stack -/

@[simp] theorem State.pushReturn_sp (s : State) (a : Word) : (s.pushReturn a).sp = s.sp + 1 := rfl

theorem State.pushReturn_stack (s : State) (a : Word) (k : Nat) (hk : k < 16) :
    (s.pushReturn a).stack[k] = if k = s.sp.toNat then a else s.stack[k] := by
  simp [State.pushReturn, Vector.getElem_setIfInBounds, eq_comm]

theorem State.stackAt_of_lt (s : State) {k : Nat} (h : k < 16) : s.stackAt k = some (s.stack[k]) := by
  simp [State.stackAt, h]

theorem State.stackAt_of_ge (s : State) {k : Nat} (h : 16 ≤ k) : s.stackAt k = none := by
  simp only [State.stackAt]
  exact Vector.getElem?_eq_none h

/-! ## Meanings with more than one end -/

/-- RET: empty, an entry to return to, or an SP that R29 rules out. -/
theorem execRet_cases (s : State) :
    (s.sp = 0#8 ∧ execRet s = raise .emptyStack s) ∨
      (s.sp ≠ 0#8 ∧ ∃ h : (s.sp - 1).toNat < 16,
        execRet s = complete (.jumpTo s.stack[(s.sp - 1).toNat]) (s.setSp (s.sp - 1))) ∨
      (17 ≤ s.sp.toNat ∧ execRet s = .fault .illegalStackPointer) := by
  unfold execRet
  by_cases h0 : s.sp = 0#8
  · exact .inl ⟨h0, if_pos h0⟩
  · rw [if_neg h0]
    by_cases h : (s.sp - 1).toNat < 16
    · refine .inr (.inl ⟨h0, h, ?_⟩)
      rw [State.stackAt_of_lt s h]
    · refine .inr (.inr ⟨?_, ?_⟩)
      · have := s.sp.isLt
        have h1 : s.sp.toNat ≠ 0 := fun hz => h0 (BitVec.eq_of_toNat_eq (by simpa using hz))
        simp only [BitVec.toNat_sub] at h
        simp at h
        omega
      · rw [State.stackAt_of_ge s (Nat.le_of_not_lt h)]

/-- CALL: full, room for an entry, or an SP that R29 rules out. -/
theorem execCall_cases (nnn : Addr) (s : State) :
    (s.sp.toNat = 16 ∧ execCall nnn s = raise .fullStack s) ∨
      (s.sp.toNat < 16 ∧ execCall nnn s = complete (.jumpTo (zextAddr nnn)) (s.pushReturn (s.pc + 2))) ∨
      (17 ≤ s.sp.toNat ∧ execCall nnn s = .fault .illegalStackPointer) := by
  unfold execCall Config.stackDepth
  by_cases h : s.sp.toNat = 16
  · exact .inl ⟨h, if_pos h⟩
  · rw [if_neg h]
    by_cases hlt : s.sp.toNat < 16
    · exact .inr (.inl ⟨hlt, if_pos hlt⟩)
    · exact .inr (.inr ⟨by omega, if_neg hlt⟩)

theorem execSkp_eq (x : Nibble) (s : State) :
    execSkp x s =
      if s.cfg.keyIndex = .mod16 ∨ (s.getV x).toNat ≤ 15 then
        complete (skipIf (s.keyDown ((s.getV x).toNat % 16))) s
      else raise (.keyIndexOutOfRange (s.getV x)) s := by
  rw [execSkp, keyIndex_eq]
  by_cases h : s.cfg.keyIndex = .mod16 ∨ (s.getV x).toNat ≤ 15
  · rw [if_pos h, if_pos h]
  · rw [if_neg h, if_neg h]

theorem execSknp_eq (x : Nibble) (s : State) :
    execSknp x s =
      if s.cfg.keyIndex = .mod16 ∨ (s.getV x).toNat ≤ 15 then
        complete (skipIf (!s.keyDown ((s.getV x).toNat % 16))) s
      else raise (.keyIndexOutOfRange (s.getV x)) s := by
  rw [execSknp, keyIndex_eq]
  by_cases h : s.cfg.keyIndex = .mod16 ∨ (s.getV x).toNat ≤ 15
  · rw [if_pos h, if_pos h]
  · rw [if_neg h, if_neg h]

theorem resolveRange_of_inReach {s : State} {n : Nat} (h : DataInReach s n) :
    resolveRange s.cfg.memOob s.i.toNat n = .ok (cellsFrom s.i.toNat n) := by
  rw [resolveRange_eq]
  exact if_pos h

theorem resolveRange_of_not_inReach {s : State} {n : Nat} (h : ¬ DataInReach s n) :
    resolveRange s.cfg.memOob s.i.toNat n = .error (.memoryAccessOutOfBounds (max s.i.toNat 4096)) := by
  rw [resolveRange_eq]
  exact if_neg h

/-- After n bytes are stored from I on, every address of memory holds what State.byteAfterStore says. -/
theorem State.storeBytes_readByte_cells (s : State) (n : Nat) (b : Nat → Byte) (bs : List Byte) (hm : s.memOk)
    (hn : n ≤ 4096) (hl : bs.length = n) (hb : ∀ k (h : k < bs.length), bs[k] = b k) (a : Nat)
    (ha : a < 4096) :
    (s.storeBytes (cellsFrom s.i.toNat n) bs).readByte a = s.byteAfterStore n b a := by
  unfold State.byteAfterStore State.offsetOf
  by_cases hk : (a + 4096 - s.i.toNat % 4096) % 4096 < n
  · rw [if_pos hk, ← hb _ (by omega)]
    have hcell : (cellsFrom s.i.toNat n)[(a + 4096 - s.i.toNat % 4096) % 4096]'(by simpa using hk) = a := by
      rw [cellsFrom_getElem]
      omega
    have hread := State.storeBytes_readByte s (cellsFrom s.i.toNat n) bs (cellsFrom_nodup _ _ hn) (by simp [hl])
      (cellsFrom_lt _ _) hm _ (by simpa using hk)
    rwa [hcell] at hread
  · rw [if_neg hk]
    refine State.storeBytes_readByte_of_not_mem _ _ _ _ fun hmem => hk ?_
    simp only [cellsFrom, List.mem_map, List.mem_range] at hmem
    obtain ⟨k, hkn, rfl⟩ := hmem
    omega

theorem execLdBVx_of_inReach {x : Nibble} {s : State} (h : DataInReach s 3) :
    execLdBVx x s = complete .advance (s.storeBytes (cellsFrom s.i.toNat 3) (bcdDigits (s.getV x))) := by
  rw [execLdBVx, resolveRange_of_inReach h]

theorem execLdBVx_of_not_inReach {x : Nibble} {s : State} (h : ¬ DataInReach s 3) :
    execLdBVx x s = raise (.memoryAccessOutOfBounds (max s.i.toNat 4096)) s := by
  rw [execLdBVx, resolveRange_of_not_inReach h]

theorem execLdMemVx_of_inReach {x : Nibble} {s : State} (h : DataInReach s (x.toNat + 1)) :
    execLdMemVx x s = complete .advance
      ((s.storeBytes (cellsFrom s.i.toNat (x.toNat + 1)) (s.regsUpTo x)).setI (s.indexAfter x)) := by
  rw [execLdMemVx, resolveRange_of_inReach h]

theorem execLdMemVx_of_not_inReach {x : Nibble} {s : State} (h : ¬ DataInReach s (x.toNat + 1)) :
    execLdMemVx x s = raise (.memoryAccessOutOfBounds (max s.i.toNat 4096)) s := by
  rw [execLdMemVx, resolveRange_of_not_inReach h]

theorem execLdVxMem_of_inReach {x : Nibble} {s : State} (h : DataInReach s (x.toNat + 1)) :
    execLdVxMem x s = complete .advance
      ((s.setRegs (writeRegs 0 (s.loadBytes (cellsFrom s.i.toNat (x.toNat + 1))) s.v)).setI (s.indexAfter x)) := by
  rw [execLdVxMem, resolveRange_of_inReach h]

theorem execLdVxMem_of_not_inReach {x : Nibble} {s : State} (h : ¬ DataInReach s (x.toNat + 1)) :
    execLdVxMem x s = raise (.memoryAccessOutOfBounds (max s.i.toNat 4096)) s := by
  rw [execLdVxMem, resolveRange_of_not_inReach h]

/-- The pixels the sprite of a DRW covers. -/
def State.drawnPixels (s : State) (x y n : Nibble) : List (Fin 64 × Fin 32) :=
  spritePixels (s.getV x).toNat (s.getV y).toNat 0 (s.loadBytes (cellsFrom s.i.toNat n.toNat))

theorem State.drawnPixels_nodup (s : State) (x y n : Nibble) : (s.drawnPixels x y n).Nodup := by
  have := n.isLt
  exact spritePixels_nodup _ _ _ _ (by simp; omega)

theorem execDrw_of_inReach {x y n : Nibble} {s : State} (h : DataInReach s n.toNat) :
    execDrw x y n s = complete .advance
      (((s.setFb (blit (s.drawnPixels x y n) s.fb false).1).setV 15#4
        (flagByte (blit (s.drawnPixels x y n) s.fb false).2)).setDisplayChanged true) := by
  rw [execDrw, resolveRange_of_inReach h]
  rfl

theorem execDrw_of_not_inReach {x y n : Nibble} {s : State} (h : ¬ DataInReach s n.toNat) :
    execDrw x y n s = raise (.memoryAccessOutOfBounds (max s.i.toNat 4096)) s := by
  rw [execDrw, resolveRange_of_not_inReach h]

/-! ## Host operations -/

@[simp] theorem countDown_toNat (b : Byte) : (countDown b).toNat = b.toNat - 1 := by
  revert b; decide

theorem frameStep_of_fault {s : State} (h : s.fault.isSome) : frameStep s = s := if_pos h

theorem frameStep_of_running {s : State} (h : s.fault = none) :
    frameStep s = (((s.setDisplayChanged false).setDt (countDown s.dt)).setSt (countDown s.st)).setSoundActive
      (decide (s.st.toNat > 1)) := by
  have hn : ¬ (s.fault.isSome = true) := by simp [h]
  rw [frameStep, if_neg hn]
  simp only [State.setSt_st, countDown_toNat]
  congr 1
  exact decide_eq_decide.mpr (by omega)

/-- The lowest set bit, when there is one (60_exceptions.md R321). -/
theorem lowestKey_eq_some {edge : Word} {k : Nat} :
    lowestKey edge = some k ↔ k < 16 ∧ edge.getLsbD k = true ∧ ∀ j < k, edge.getLsbD j = false := by
  simp only [lowestKey, List.find?_range_eq_some]
  constructor
  · rintro ⟨h1, h2, h3⟩
    exact ⟨List.mem_range.mp h2, h1, fun j hj => by simpa using h3 j hj⟩
  · rintro ⟨h1, h2, h3⟩
    exact ⟨h2, List.mem_range.mpr h1, fun j hj => by simp [h3 j hj]⟩

theorem lowestKey_eq_none {edge : Word} : lowestKey edge = none ↔ edge = 0#16 := by
  simp only [lowestKey, List.find?_eq_none, List.mem_range]
  constructor
  · intro h
    apply BitVec.eq_of_getLsbD_eq
    intro i hi
    simpa using h i hi
  · rintro rfl k -
    simp

theorem keyEdge_of_fault {edge : Word} {s : State} (h : s.fault.isSome) : keyEdge edge s = s := if_pos h

theorem keyEdge_of_idle {edge : Word} {s : State} (h : s.waitActive = false) : keyEdge edge s = s := by
  simp [keyEdge, h]

theorem keyEdge_zero (s : State) : keyEdge 0#16 s = s := by
  have h : lowestKey 0#16 = none := lowestKey_eq_none.mpr rfl
  simp [keyEdge, h]

theorem keyEdge_of_waiting {edge : Word} {s : State} {k : Nat} (hf : s.fault = none) (hw : s.waitActive = true)
    (hk : lowestKey edge = some k) :
    keyEdge edge s = (s.setV s.waitReg (BitVec.ofNat 8 k)).setWaitActive false := by
  simp [keyEdge, hf, hw, hk]

/-- All that a LOAD can be (70_reset_and_hazards.md R353, 60_exceptions.md R313; log 17). -/
theorem loadImage_cases (p : List Byte) (s : State) :
    (p.length ≤ 3584 ∧ loadImage p s = (resetBlock s).storeImage 0x200 p) ∨
      (3584 < p.length ∧ (s.fault = none ∨ s.cfg.failedLoad = .replacesError) ∧
        loadImage p s = s.setFault (some .memoryOverflow)) ∨
      (3584 < p.length ∧ s.fault.isSome ∧ s.cfg.failedLoad = .keepsError ∧ loadImage p s = s) := by
  have hm : maxImage = 3584 := rfl
  unfold loadImage
  by_cases hl : p.length > maxImage
  · cases hf : s.fault <;> cases hc : s.cfg.failedLoad
    case some.keepsError => exact .inr (.inr ⟨by omega, rfl, rfl, by simp [hl]⟩)
    all_goals exact .inr (.inl ⟨by omega, by simp, by simp [hl]⟩)
  · exact .inl ⟨by omega, if_neg hl⟩

/-! ## The tick and the step -/

/-- A TICK is not held exactly under KEY_WAIT_POLICY = advance or with no wait pending (44_timers_keypad.md R264, R265). -/
theorem State.stalled_eq_false (s : State) : s.stalled = false ↔ s.cfg.keyWait = .advance ∨ s.waitActive = false := by
  unfold State.stalled
  cases s.cfg.keyWait <;> simp

/-- All that a TICK can be, in the order of its checks (60_exceptions.md R308). -/
theorem tick_cases (s : State) :
    (s.fault.isSome ∧ tick s = .next s) ∨
      (s.fault = none ∧ s.stalled = true ∧ tick s = .next s) ∨
      (s.fault = none ∧ s.stalled = false ∧ 0xFFE < s.pc.toNat ∧ tick s = raise .programCounterOutOfBounds s) ∨
      (s.fault = none ∧ s.stalled = false ∧ s.pc.toNat ≤ 0xFFE ∧
        decode s.cfg.sysPolicy s.fetch.1 s.fetch.2 = .badOperation s.fetch.1 s.fetch.2 ∧
        tick s = raise (.badOperation s.fetch.1 s.fetch.2) s) ∨
      (s.fault = none ∧ s.stalled = false ∧ s.pc.toNat ≤ 0xFFE ∧
        ∃ i, decode s.cfg.sysPolicy s.fetch.1 s.fetch.2 = .instr i ∧ tick s = exec i s) := by
  unfold tick
  cases hf : s.fault with
  | some e => exact .inl ⟨rfl, rfl⟩
  | none =>
    right
    cases hs : s.stalled with
    | true => exact .inl ⟨rfl, rfl, by simp⟩
    | false =>
      right
      by_cases hp : s.pc.toNat ≤ 0xFFE
      · right
        have hp' : pcInRange s.pc = true := decide_eq_true hp
        cases ht : decodeTable s.fetch.1 s.fetch.2 with
        | none =>
          have hd := Sys2Proof.decode_of_none ht s.cfg.sysPolicy
          exact .inl ⟨rfl, rfl, hp, hd, by simp [hp', runFetched, hd]⟩
        | some i =>
          by_cases hsys : ∃ nnn, i = .sys nnn
          · obtain ⟨nnn, rfl⟩ := hsys
            have hd := Sys2Proof.decode_of_sys ht s.cfg.sysPolicy
            by_cases hn : s.cfg.sysPolicy = .nop
            · rw [if_pos hn] at hd
              exact .inr ⟨rfl, rfl, hp, _, hd, by simp [hp', runFetched, hd]⟩
            · rw [if_neg hn] at hd
              exact .inl ⟨rfl, rfl, hp, hd, by simp [hp', runFetched, hd]⟩
          · have hd := Sys2Proof.decode_of_table ht (fun nnn h => hsys ⟨nnn, h⟩) s.cfg.sysPolicy
            exact .inr ⟨rfl, rfl, hp, i, hd, by simp [hp', runFetched, hd]⟩
      · have hp' : pcInRange s.pc = false := decide_eq_false hp
        exact .inl ⟨rfl, rfl, by omega, by simp [hp']⟩

theorem step_of_no_ops {s : State} (h : s.env.ops = []) : step s = tick s := by
  simp [step, h]

theorem step_of_op {s : State} {op : HostOp} {ops : List HostOp} (h : s.env.ops = op :: ops) :
    step s = runOp op (s.setEnv { s.env with ops := ops }) := by
  simp [step, h]

end Sys2Proof.Machine
end

