-- ==== Sys2Proof/Laws/PerInstr.lean ====
section
/-! SUPPORT. Per-instruction laws: the encoded word of an instruction has the fixed bits of its row of the opcode table. -/

namespace Sys2Proof.Laws.RowMatch

/-- word AND mask = match, the row's own numbers (spec/opcode_table.json). -/
def Statement (i : Instr) : Prop :=
  wordOf (encode i).1 (encode i).2 &&& formatMask i.format = rowMatch i

/-- Format NNN keeps the op nibble. -/
theorem keeps_op_of_nnn (op : Nibble) (nnn : Addr) :
    wordOf (encodeNnn op nnn).1 (encodeNnn op nnn).2 &&& 0xF000 = op ++ (0#12) := by
  apply BitVec.eq_of_getLsbD_eq
  intro i hi
  simp only [wordOf, encodeNnn, BitVec.getLsbD_and, BitVec.getLsbD_append]
  interval_cases i <;> simp

/-- Format XKK keeps the op nibble. -/
theorem keeps_op_of_xkk (op x : Nibble) (kk : Byte) :
    wordOf (encodeXkk op x kk).1 (encodeXkk op x kk).2 &&& 0xF000 = op ++ (0#12) := by
  apply BitVec.eq_of_getLsbD_eq
  intro i hi
  simp only [wordOf, encodeXkk, BitVec.getLsbD_and, BitVec.getLsbD_append]
  interval_cases i <;> simp

/-- Format XSS keeps the op nibble and the low byte. -/
theorem keeps_op_and_byte (op x : Nibble) (kk : Byte) :
    wordOf (encodeXkk op x kk).1 (encodeXkk op x kk).2 &&& 0xF0FF = (op ++ 0#4 : Byte) ++ kk := by
  apply BitVec.eq_of_getLsbD_eq
  intro i hi
  simp only [wordOf, encodeXkk, BitVec.getLsbD_and, BitVec.getLsbD_append]
  interval_cases i <;> simp

/-- Format XYN keeps the op nibble. -/
theorem keeps_op_of_xyn (op x y n : Nibble) :
    wordOf (encodeXyn op x y n).1 (encodeXyn op x y n).2 &&& 0xF000 = op ++ (0#12) := by
  apply BitVec.eq_of_getLsbD_eq
  intro i hi
  simp only [wordOf, encodeXyn, BitVec.getLsbD_and, BitVec.getLsbD_append]
  interval_cases i <;> simp

/-- Format XYS keeps the op nibble and the low nibble. -/
theorem keeps_op_and_nibble (op x y n : Nibble) :
    wordOf (encodeXyn op x y n).1 (encodeXyn op x y n).2 &&& 0xF00F = (op ++ 0#4 : Byte) ++ (0#4 ++ n : Byte) := by
  apply BitVec.eq_of_getLsbD_eq
  intro i hi
  simp only [wordOf, encodeXyn, BitVec.getLsbD_and, BitVec.getLsbD_append]
  interval_cases i <;> simp

theorem sys (nnn : Addr) : Statement (.sys nnn) := (keeps_op_of_nnn 0x0#4 nnn).trans rfl

theorem cls : Statement (.cls) := by unfold Statement; decide

theorem ret : Statement (.ret) := by unfold Statement; decide

theorem jp (nnn : Addr) : Statement (.jp nnn) := (keeps_op_of_nnn 0x1#4 nnn).trans rfl

theorem call (nnn : Addr) : Statement (.call nnn) := (keeps_op_of_nnn 0x2#4 nnn).trans rfl

theorem seImm (x : Nibble) (kk : Byte) : Statement (.seImm x kk) := (keeps_op_of_xkk 0x3#4 x kk).trans rfl

theorem sneImm (x : Nibble) (kk : Byte) : Statement (.sneImm x kk) := (keeps_op_of_xkk 0x4#4 x kk).trans rfl

theorem seReg (x y : Nibble) : Statement (.seReg x y) := (keeps_op_and_nibble 0x5#4 x y 0x0#4).trans rfl

theorem ldImm (x : Nibble) (kk : Byte) : Statement (.ldImm x kk) := (keeps_op_of_xkk 0x6#4 x kk).trans rfl

theorem addImm (x : Nibble) (kk : Byte) : Statement (.addImm x kk) := (keeps_op_of_xkk 0x7#4 x kk).trans rfl

theorem ldReg (x y : Nibble) : Statement (.ldReg x y) := (keeps_op_and_nibble 0x8#4 x y 0x0#4).trans rfl

theorem orReg (x y : Nibble) : Statement (.orReg x y) := (keeps_op_and_nibble 0x8#4 x y 0x1#4).trans rfl

theorem andReg (x y : Nibble) : Statement (.andReg x y) := (keeps_op_and_nibble 0x8#4 x y 0x2#4).trans rfl

theorem xorReg (x y : Nibble) : Statement (.xorReg x y) := (keeps_op_and_nibble 0x8#4 x y 0x3#4).trans rfl

theorem addReg (x y : Nibble) : Statement (.addReg x y) := (keeps_op_and_nibble 0x8#4 x y 0x4#4).trans rfl

theorem subReg (x y : Nibble) : Statement (.subReg x y) := (keeps_op_and_nibble 0x8#4 x y 0x5#4).trans rfl

theorem shr (x y : Nibble) : Statement (.shr x y) := (keeps_op_and_nibble 0x8#4 x y 0x6#4).trans rfl

theorem subnReg (x y : Nibble) : Statement (.subnReg x y) := (keeps_op_and_nibble 0x8#4 x y 0x7#4).trans rfl

theorem shl (x y : Nibble) : Statement (.shl x y) := (keeps_op_and_nibble 0x8#4 x y 0xe#4).trans rfl

theorem sneReg (x y : Nibble) : Statement (.sneReg x y) := (keeps_op_and_nibble 0x9#4 x y 0x0#4).trans rfl

theorem ldI (nnn : Addr) : Statement (.ldI nnn) := (keeps_op_of_nnn 0xa#4 nnn).trans rfl

theorem jpV0 (nnn : Addr) : Statement (.jpV0 nnn) := (keeps_op_of_nnn 0xb#4 nnn).trans rfl

theorem rnd (x : Nibble) (kk : Byte) : Statement (.rnd x kk) := (keeps_op_of_xkk 0xc#4 x kk).trans rfl

theorem drw (x y n : Nibble) : Statement (.drw x y n) := (keeps_op_of_xyn 0xd#4 x y n).trans rfl

theorem skp (x : Nibble) : Statement (.skp x) := (keeps_op_and_byte 0xe#4 x 0x9e#8).trans rfl

theorem sknp (x : Nibble) : Statement (.sknp x) := (keeps_op_and_byte 0xe#4 x 0xa1#8).trans rfl

theorem ldVxDt (x : Nibble) : Statement (.ldVxDt x) := (keeps_op_and_byte 0xf#4 x 0x7#8).trans rfl

theorem ldVxK (x : Nibble) : Statement (.ldVxK x) := (keeps_op_and_byte 0xf#4 x 0xa#8).trans rfl

theorem ldDtVx (x : Nibble) : Statement (.ldDtVx x) := (keeps_op_and_byte 0xf#4 x 0x15#8).trans rfl

theorem ldStVx (x : Nibble) : Statement (.ldStVx x) := (keeps_op_and_byte 0xf#4 x 0x18#8).trans rfl

theorem addIVx (x : Nibble) : Statement (.addIVx x) := (keeps_op_and_byte 0xf#4 x 0x1e#8).trans rfl

theorem ldFVx (x : Nibble) : Statement (.ldFVx x) := (keeps_op_and_byte 0xf#4 x 0x29#8).trans rfl

theorem ldBVx (x : Nibble) : Statement (.ldBVx x) := (keeps_op_and_byte 0xf#4 x 0x33#8).trans rfl

theorem ldMemVx (x : Nibble) : Statement (.ldMemVx x) := (keeps_op_and_byte 0xf#4 x 0x55#8).trans rfl

theorem ldVxMem (x : Nibble) : Statement (.ldVxMem x) := (keeps_op_and_byte 0xf#4 x 0x65#8).trans rfl

end Sys2Proof.Laws.RowMatch
end

