-- ==== Sys2Proof/Laws/Whole.lean ====
section
/-! SUPPORT. Once for all instructions and all host operations: how each can end and what it never touches. -/

namespace Sys2Proof.Machine

/-- The directives instruction i can return from state s (30_encoding.md R95, 40_control_flow.md). -/
def MayDirect (i : Instr) (s : State) (d : Directive) : Prop :=
  d = .advance ∨
    (d = .skipNext ∧ ((∃ x kk, i = .seImm x kk ∨ i = .sneImm x kk) ∨ (∃ x y, i = .seReg x y ∨ i = .sneReg x y) ∨
      ∃ x, i = .skp x ∨ i = .sknp x)) ∨
    (∃ nnn, (i = .jp nnn ∨ i = .call nnn) ∧ d = .jumpTo (zextAddr nnn)) ∨
    (∃ nnn, i = .jpV0 nnn ∧ d = .jumpTo (zextAddr nnn + zextByte (s.getV 0#4))) ∨
    (i = .ret ∧ ∃ k, ∃ h : k < 16, d = .jumpTo s.stack[k])

/-- What a completing instruction i leaves as it was in s, before its directive is applied. -/
structure Spares (i : Instr) (s t : State) : Prop where
  pc : t.pc = s.pc
  fault : t.fault = s.fault
  cfg : t.cfg = s.cfg
  ops : t.env.ops = s.env.ops
  sp : s.sp.toNat ≤ 16 → t.sp.toNat ≤ 16
  stack : t.stack = s.stack ∨ ∃ nnn, i = .call nnn ∧ t.stack = s.stack.setIfInBounds s.sp.toNat (s.pc + 2)
  memOk : s.memOk → t.memOk

theorem Spares.self (i : Instr) (s : State) : Spares i s s := ⟨rfl, rfl, rfl, rfl, id, .inl rfl, id⟩

/-- A write of result and flag spares what a write of the register file does. -/
theorem Spares.writeRF (i : Instr) (s : State) (x : Nibble) (r : Byte) (f : Bool) : Spares i s (s.writeRF x r f) := by
  rw [State.writeRF_eq_setRegs]
  exact ⟨rfl, rfl, rfl, rfl, id, .inl rfl, id⟩

theorem Spares.storeBytes (i : Instr) (s : State) (n : Nat) (bs : List Byte) :
    Spares i s (s.storeBytes (cellsFrom s.i.toNat n) bs) := by
  have hm := State.storeBytes_memOk s (cellsFrom s.i.toNat n) bs (fun a => cellsFrom_lt _ _ a)
  rw [State.storeBytes_eq_setMem] at hm ⊢
  exact ⟨rfl, rfl, rfl, rfl, id, .inl rfl, hm⟩

theorem MayDirect.skipIf (c : Bool) (i : Instr) (s : State)
    (h : (∃ x kk, i = .seImm x kk ∨ i = .sneImm x kk) ∨ (∃ x y, i = .seReg x y ∨ i = .sneReg x y) ∨
      ∃ x, i = .skp x ∨ i = .sknp x) : MayDirect i s (skipIf c) := by
  cases c
  · exact .inl rfl
  · exact .inr (.inl ⟨rfl, h⟩)

/-- All the ways an instruction can end, where SP is legal or the instruction does not use it: it raises an error of its own
from the state it began in, or completes. -/
theorem exec_cases (i : Instr) (s : State) (h : s.sp.toNat ≤ 16 ∨ (i ≠ .ret ∧ ∀ nnn, i ≠ .call nnn)) :
    (∃ e, MayRaise i s e ∧ exec i s = raise e s) ∨ ∃ d t, exec i s = complete d t ∧ Spares i s t ∧ MayDirect i s d := by
  cases i
  case ret =>
    rcases execRet_cases s with ⟨-, he⟩ | ⟨h0, hl, he⟩ | ⟨hbad, -⟩
    · exact .inl ⟨_, rfl, he⟩
    · refine .inr ⟨_, _, he, ⟨rfl, rfl, rfl, rfl, fun _ => ?_, .inl rfl, id⟩, .inr (.inr (.inr (.inr ⟨rfl, _, hl, rfl⟩)))⟩
      exact Nat.le_of_lt hl
    · rcases h with h | h
      · omega
      · exact absurd rfl h.1
  case call nnn =>
    rcases execCall_cases nnn s with ⟨-, he⟩ | ⟨hlt, he⟩ | ⟨hbad, -⟩
    · exact .inl ⟨_, rfl, he⟩
    · refine .inr ⟨_, _, he, ⟨rfl, rfl, rfl, rfl, fun _ => ?_, .inr ⟨_, rfl, rfl⟩, id⟩, .inr (.inr (.inl ⟨_, .inr rfl, rfl⟩))⟩
      rw [State.pushReturn_sp, BitVec.toNat_add]
      show (s.sp.toNat + 1) % 256 ≤ 16
      omega
    · rcases h with h | h
      · omega
      · exact absurd rfl (h.2 nnn)
  case sys nnn =>
    cases hp : s.cfg.sysPolicy
    · exact .inl ⟨_, rfl, by simp only [exec, execSys, hp, encode_sys_high, encode_sys_low]⟩
    · exact .inr ⟨_, _, by simp only [exec, execSys, hp], Spares.self _ s, .inl rfl⟩
  case jp nnn => exact .inr ⟨_, _, rfl, Spares.self _ s, .inr (.inr (.inl ⟨nnn, .inl rfl, rfl⟩))⟩
  case jpV0 nnn => exact .inr ⟨_, _, rfl, Spares.self _ s, .inr (.inr (.inr (.inl ⟨nnn, rfl, rfl⟩)))⟩
  case seImm x kk => exact .inr ⟨_, _, rfl, Spares.self _ s, .skipIf _ _ s (.inl ⟨x, kk, .inl rfl⟩)⟩
  case sneImm x kk => exact .inr ⟨_, _, rfl, Spares.self _ s, .skipIf _ _ s (.inl ⟨x, kk, .inr rfl⟩)⟩
  case seReg x y => exact .inr ⟨_, _, rfl, Spares.self _ s, .skipIf _ _ s (.inr (.inl ⟨x, y, .inl rfl⟩))⟩
  case sneReg x y => exact .inr ⟨_, _, rfl, Spares.self _ s, .skipIf _ _ s (.inr (.inl ⟨x, y, .inr rfl⟩))⟩
  case skp x =>
    by_cases hk : s.cfg.keyIndex = .mod16 ∨ (s.getV x).toNat ≤ 15
    · exact .inr ⟨_, _, (execSkp_eq x s).trans (if_pos hk), Spares.self _ s, .skipIf _ _ s (.inr (.inr ⟨x, .inl rfl⟩))⟩
    · exact .inl ⟨_, rfl, (execSkp_eq x s).trans (if_neg hk)⟩
  case sknp x =>
    by_cases hk : s.cfg.keyIndex = .mod16 ∨ (s.getV x).toNat ≤ 15
    · exact .inr ⟨_, _, (execSknp_eq x s).trans (if_pos hk), Spares.self _ s, .skipIf _ _ s (.inr (.inr ⟨x, .inr rfl⟩))⟩
    · exact .inl ⟨_, rfl, (execSknp_eq x s).trans (if_neg hk)⟩
  case ldBVx x =>
    by_cases hr : DataInReach s 3
    · exact .inr ⟨_, _, execLdBVx_of_inReach hr, .storeBytes _ s _ _, .inl rfl⟩
    · exact .inl ⟨_, rfl, execLdBVx_of_not_inReach hr⟩
  case ldMemVx x =>
    by_cases hr : DataInReach s (x.toNat + 1)
    · obtain ⟨h1, h2, h3, h4, h5, h6, h7⟩ := Spares.storeBytes (.ldMemVx x) s (x.toNat + 1) (s.regsUpTo x)
      exact .inr ⟨_, _, execLdMemVx_of_inReach hr, ⟨h1, h2, h3, h4, h5, h6, h7⟩, .inl rfl⟩
    · exact .inl ⟨_, rfl, execLdMemVx_of_not_inReach hr⟩
  case ldVxMem x =>
    by_cases hr : DataInReach s (x.toNat + 1)
    · exact .inr ⟨_, _, execLdVxMem_of_inReach hr, ⟨rfl, rfl, rfl, rfl, id, .inl rfl, id⟩, .inl rfl⟩
    · exact .inl ⟨_, rfl, execLdVxMem_of_not_inReach hr⟩
  case drw x y n =>
    by_cases hr : DataInReach s n.toNat
    · exact .inr ⟨_, _, execDrw_of_inReach hr, ⟨rfl, rfl, rfl, rfl, id, .inl rfl, id⟩, .inl rfl⟩
    · exact .inl ⟨_, rfl, execDrw_of_not_inReach hr⟩
  case rnd x kk =>
    refine .inr ⟨_, _, rfl, ⟨rfl, rfl, rfl, ?_, id, .inl rfl, id⟩, .inl rfl⟩
    rcases s.env.draw_cases with ⟨b, bs, -, -, hd⟩ | ⟨-, -, hd⟩ <;> simp [hd]
  case addReg => exact .inr ⟨_, _, rfl, .writeRF _ s _ _ _, .inl rfl⟩
  case subReg => exact .inr ⟨_, _, rfl, .writeRF _ s _ _ _, .inl rfl⟩
  case subnReg => exact .inr ⟨_, _, rfl, .writeRF _ s _ _ _, .inl rfl⟩
  case shr => exact .inr ⟨_, _, rfl, .writeRF _ s _ _ _, .inl rfl⟩
  case shl => exact .inr ⟨_, _, rfl, .writeRF _ s _ _ _, .inl rfl⟩
  all_goals exact .inr ⟨_, _, rfl, ⟨rfl, rfl, rfl, rfl, id, .inl rfl, id⟩, .inl rfl⟩

/-! ## Host operations other than TICK, RESET and LOAD -/

/-- FRAME writes DT, ST, display_changed and sound_active only (60_exceptions.md R320). -/
theorem frameStep_spares (i : Instr) (s : State) : Spares i s (frameStep s) := by
  unfold frameStep
  split
  · exact ⟨rfl, rfl, rfl, rfl, id, .inl rfl, id⟩
  · exact ⟨rfl, rfl, rfl, rfl, id, .inl rfl, id⟩

/-- KEY_EDGE writes one V register and wait_active only (60_exceptions.md R321). -/
theorem keyEdge_spares (i : Instr) (edge : Word) (s : State) : Spares i s (keyEdge edge s) := by
  unfold keyEdge
  split
  · exact ⟨rfl, rfl, rfl, rfl, id, .inl rfl, id⟩
  · split
    · split
      · exact ⟨rfl, rfl, rfl, rfl, id, .inl rfl, id⟩
      · exact ⟨rfl, rfl, rfl, rfl, id, .inl rfl, id⟩
    · exact ⟨rfl, rfl, rfl, rfl, id, .inl rfl, id⟩

/-- KEY_POLL writes what KEY_EDGE does and prev_keys (60_exceptions.md R322). -/
theorem keyPoll_spares (i : Instr) (keys : Word) (s : State) : Spares i s (keyPoll keys s) := by
  unfold keyPoll
  split
  · exact ⟨rfl, rfl, rfl, rfl, id, .inl rfl, id⟩
  · obtain ⟨h1, h2, h3, h4, h5, h6, h7⟩ := keyEdge_spares i (keys &&& ~~~s.prevKeys) (s.setPrevKeys keys)
    exact ⟨h1, h2, h3, h4, h5, h6, h7⟩

end Sys2Proof.Machine
end

