-- ==== Sys2Proof/Machine/Asm.lean ====
section
/-! DEFINITION. The written form of an instruction (30_encoding.md R97): MNEMONIC operand, operand. It is a reading aid:
nothing in the machine uses it (log 15). -/

namespace Sys2Proof.Machine

/-- One hex digit. -/
def hexDigit (n : Nibble) : String :=
  ["0", "1", "2", "3", "4", "5", "6", "7", "8", "9", "A", "B", "C", "D", "E", "F"][n.toNat]?.getD ""

/-- A register Vx (R97). -/
def asmReg (r : Nibble) : String := "V" ++ hexDigit r

/-- A byte kk as 0x and two digits, as in 0x0A (R97). -/
def asmByte (b : Byte) : String := "0x" ++ hexDigit (b.extractLsb' 4 4) ++ hexDigit (b.extractLsb' 0 4)

/-- An address nnn as 0x and three digits. -/
def asmAddr (a : Addr) : String :=
  "0x" ++ hexDigit (a.extractLsb' 8 4) ++ hexDigit (a.extractLsb' 4 4) ++ hexDigit (a.extractLsb' 0 4)

/-- A mnemonic with one operand. -/
def asm1 (m a : String) : String := m ++ " " ++ a

/-- A mnemonic with two operands. -/
def asm2 (m a b : String) : String := m ++ " " ++ a ++ ", " ++ b

/-- The mnemonic and operands of R90. SHR and SHL are always spelled with both registers (R97). -/
def asm : Instr → String
  | .sys nnn => asm1 "SYS" (asmAddr nnn)
  | .cls => "CLS"
  | .ret => "RET"
  | .jp nnn => asm1 "JP" (asmAddr nnn)
  | .call nnn => asm1 "CALL" (asmAddr nnn)
  | .seImm x kk => asm2 "SE" (asmReg x) (asmByte kk)
  | .sneImm x kk => asm2 "SNE" (asmReg x) (asmByte kk)
  | .seReg x y => asm2 "SE" (asmReg x) (asmReg y)
  | .ldImm x kk => asm2 "LD" (asmReg x) (asmByte kk)
  | .addImm x kk => asm2 "ADD" (asmReg x) (asmByte kk)
  | .ldReg x y => asm2 "LD" (asmReg x) (asmReg y)
  | .orReg x y => asm2 "OR" (asmReg x) (asmReg y)
  | .andReg x y => asm2 "AND" (asmReg x) (asmReg y)
  | .xorReg x y => asm2 "XOR" (asmReg x) (asmReg y)
  | .addReg x y => asm2 "ADD" (asmReg x) (asmReg y)
  | .subReg x y => asm2 "SUB" (asmReg x) (asmReg y)
  | .shr x y => asm2 "SHR" (asmReg x) (asmReg y)
  | .subnReg x y => asm2 "SUBN" (asmReg x) (asmReg y)
  | .shl x y => asm2 "SHL" (asmReg x) (asmReg y)
  | .sneReg x y => asm2 "SNE" (asmReg x) (asmReg y)
  | .ldI nnn => asm2 "LD" "I" (asmAddr nnn)
  | .jpV0 nnn => asm2 "JP" "V0" (asmAddr nnn)
  | .rnd x kk => asm2 "RND" (asmReg x) (asmByte kk)
  | .drw x y n => asm2 "DRW" (asmReg x) (asmReg y) ++ ", " ++ toString n.toNat
  | .skp x => asm1 "SKP" (asmReg x)
  | .sknp x => asm1 "SKNP" (asmReg x)
  | .ldVxDt x => asm2 "LD" (asmReg x) "DT"
  | .ldVxK x => asm2 "LD" (asmReg x) "K"
  | .ldDtVx x => asm2 "LD" "DT" (asmReg x)
  | .ldStVx x => asm2 "LD" "ST" (asmReg x)
  | .addIVx x => asm2 "ADD" "I" (asmReg x)
  | .ldFVx x => asm2 "LD" "F" (asmReg x)
  | .ldBVx x => asm2 "LD" "B" (asmReg x)
  | .ldMemVx x => asm2 "LD" "[I]" (asmReg x)
  | .ldVxMem x => asm2 "LD" (asmReg x) "[I]"

end Sys2Proof.Machine
end

