-- ==== Sys2Proof/Tests/Slice0.lean ====
section
/-! SUPPORT. Tests. Words are written out bit by bit from the opcode map (30_encoding.md R90); expected values are those of
95_test_vectors.md, whose row a test's name ends in (s1a is row S1a, cf8 is row CF-8, ...), or are worked out by hand from the
rule a comment names. The last part meets the hypotheses of every statement with a concrete state. -/

namespace Sys2Proof.Tests

open Sys2Proof Sys2Proof.Machine

/-! ## Helpers -/

/-- The reset state with the listed registers set. -/
def regs (rs : List (Nibble × Byte)) : State := rs.foldl (fun s p => s.setV p.1 p.2) State.reset

/-- s with bytes stored from address a on. -/
def poke (s : State) (a : Nat) (bs : List Byte) : State := s.storeImage a bs

/-- s with other parameters. -/
def withCfg (f : Config → Config) (s : State) : State := { s with cfg := f s.cfg }

/-- s with another host side. -/
def withEnv (f : Env → Env) (s : State) : State := s.setEnv (f s.env)

/-- What is read from a next state. -/
def probe {α : Type} (o : Host.Outcome State Fault Refusal) (f : State → α) : Option α :=
  match o with
  | .next t => some (f t)
  | .fault _ => none
  | .refused _ => none

/-- One step from s with a table word placed where it fetches. -/
def stepWord {α : Type} (w : Nat) (s : State) (f : State → α) : Option α := probe (step (s.withFetchWord 16 w)) f

/-- Steps of a schedule. -/
def runOps {α : Type} (ops : List HostOp) (s : State) (f : State → α) : Option α :=
  probe (Sys2Proof.core.run ops.length (withEnv (fun e => { e with ops := ops }) s)) f

/-! ## WellFormed -/

theorem test_wf_refuses_cls_as_sys : (Instr.sys 0x0E0).wf = false := by decide

theorem test_wf_refuses_ret_as_sys : (Instr.sys 0x0EE).wf = false := by decide

theorem test_wf_admits_sys : (Instr.sys 0x123).wf = true ∧ (Instr.sys 0x0E1).wf = true := by decide

/-! ## Decode: every row, its bits written out -/

theorem test_decode_group_0 :
    decode .nop 0b0000_0001 0b0010_0011 = .instr (.sys 0x123) ∧ decode .fault 0b0000_0000 0b1110_0000 = .instr .cls ∧
      decode .fault 0b0000_0000 0b1110_1110 = .instr .ret := by decide

theorem test_decode_nnn :
    decode .fault 0b0001_1010 0b1011_1100 = .instr (.jp 0xABC) ∧ decode .fault 0b0010_1010 0b1011_1100 = .instr (.call 0xABC) ∧
      decode .fault 0b1010_0001 0b0010_0011 = .instr (.ldI 0x123) ∧
      decode .fault 0b1011_0011 0b0000_0000 = .instr (.jpV0 0x300) := by decide

theorem test_decode_xkk :
    decode .fault 0b0011_0011 0b0100_0010 = .instr (.seImm 3 0x42) ∧
      decode .fault 0b0100_0011 0b0100_0011 = .instr (.sneImm 3 0x43) ∧
      decode .fault 0b0110_1010 0b0000_1010 = .instr (.ldImm 10 0x0A) ∧
      decode .fault 0b0111_1010 0b0000_0101 = .instr (.addImm 10 0x05) ∧
      decode .fault 0b1100_0001 0b0000_1111 = .instr (.rnd 1 0x0F) := by decide

theorem test_decode_xy :
    decode .fault 0b0101_0001 0b0010_0000 = .instr (.seReg 1 2) ∧ decode .fault 0b1001_0001 0b0010_0000 = .instr (.sneReg 1 2) ∧
      decode .fault 0b1101_0001 0b0010_1111 = .instr (.drw 1 2 15) := by decide

theorem test_decode_group_8 :
    decode .fault 0b1000_0001 0b0010_0000 = .instr (.ldReg 1 2) ∧ decode .fault 0b1000_0001 0b0010_0001 = .instr (.orReg 1 2) ∧
      decode .fault 0b1000_0001 0b0010_0010 = .instr (.andReg 1 2) ∧
      decode .fault 0b1000_0001 0b0010_0011 = .instr (.xorReg 1 2) ∧
      decode .fault 0b1000_0001 0b0010_0100 = .instr (.addReg 1 2) ∧
      decode .fault 0b1000_0001 0b0010_0101 = .instr (.subReg 1 2) ∧
      decode .fault 0b1000_0001 0b0010_0110 = .instr (.shr 1 2) ∧
      decode .fault 0b1000_0001 0b0010_0111 = .instr (.subnReg 1 2) ∧
      decode .fault 0b1000_0001 0b0010_1110 = .instr (.shl 1 2) := by decide

theorem test_decode_group_e :
    decode .fault 0b1110_0001 0b1001_1110 = .instr (.skp 1) ∧ decode .fault 0b1110_0001 0b1010_0001 = .instr (.sknp 1) := by
  decide

theorem test_decode_group_f :
    decode .fault 0b1111_0010 0b0000_0111 = .instr (.ldVxDt 2) ∧ decode .fault 0b1111_0011 0b0000_1010 = .instr (.ldVxK 3) ∧
      decode .fault 0b1111_0001 0b0001_0101 = .instr (.ldDtVx 1) ∧ decode .fault 0b1111_0001 0b0001_1000 = .instr (.ldStVx 1) ∧
      decode .fault 0b1111_0001 0b0001_1110 = .instr (.addIVx 1) ∧ decode .fault 0b1111_0001 0b0010_1001 = .instr (.ldFVx 1) ∧
      decode .fault 0b1111_0001 0b0011_0011 = .instr (.ldBVx 1) ∧ decode .fault 0b1111_0010 0b0101_0101 = .instr (.ldMemVx 2) ∧
      decode .fault 0b1111_0001 0b0110_0101 = .instr (.ldVxMem 1) := by decide

/-- The fields of `D1 2F`. -/
theorem test_fields_dec1 :
    fieldOp 0xD1 = 0xD ∧ fieldX 0xD1 = 1 ∧ fieldY 0x2F = 2 ∧ fieldN 0x2F = 0xF ∧ fieldNnn 0xD1 0x2F = 0x12F := by decide

theorem test_illegal_words_dec5_to_dec13 :
    [(0x01, 0x23), (0x00, 0xE1), (0x00, 0x00), (0x51, 0x21), (0x81, 0x28), (0x81, 0x2D), (0x81, 0x2F), (0x91, 0x21),
      (0xE1, 0x9F), (0xE1, 0xA0), (0xF1, 0x00), (0xF1, 0x0B), (0xF1, 0x66)].all
      (fun p : Byte × Byte => decide (decode .fault p.1 p.2 = .badOperation p.1 p.2)) = true := by decide

/-- A word one bit away from CLS is SYS under nop, and the words that match no row stay illegal (R92). -/
theorem test_decode_policy :
    decode .nop 0x00 0xE1 = .instr (.sys 0x0E1) ∧ decode .nop 0x01 0xE0 = .instr (.sys 0x1E0) ∧
      decode .nop 0x51 0x21 = .badOperation 0x51 0x21 := by decide

theorem test_table_word : decodeTableWord 16 0x6A0A = some (.ldImm 10 0x0A) ∧ decodeTableWord 16 0x5121 = none := by decide

/-! The source's own three lines (R97), and one of each operand shape. -/

theorem test_asm :
    asm (.ldImm 10 0x0A) = "LD VA, 0x0A" ∧ asm (.addImm 10 0x05) = "ADD VA, 0x05" ∧ asm .cls = "CLS" ∧
      asm (.drw 0 1 5) = "DRW V0, V1, 5" ∧ asm (.ldMemVx 2) = "LD [I], V2" ∧ asm (.jpV0 0x300) = "JP V0, 0x300" := by decide

/-- The codes of 60_exceptions.md R306. -/
theorem test_error_codes :
    [MachineError.badOperation 0 0, .emptyStack, .fullStack, .programCounterOutOfBounds, .memoryOverflow,
      .memoryAccessOutOfBounds 0x1000, .keyIndexOutOfRange 0x10].map MachineError.code = [1, 2, 3, 4, 5, 6, 7] := by decide

/-! ## One step of each instruction -/

theorem test_sys_dec6 :
    stepWord 0x0123 (withCfg (fun c => { c with sysPolicy := .nop }) State.reset) (fun t => (t.pc, t.fault)) =
      some (0x0202, none) := by decide

theorem test_sys_dec5 :
    stepWord 0x0123 State.reset (fun t => (t.pc, t.fault)) = some (0x0200, some (.badOperation 0x01 0x23)) := by decide

theorem test_cls_dsp1 :
    stepWord 0x00E0 (State.reset.setFb (Vector.replicate 256 0xFF)) (fun t => (t.fb[0], t.fb[255], t.displayChanged, t.pc)) =
      some (0x00, 0x00, true, 0x0202) := by decide

theorem test_cls_dsp2 :
    stepWord 0x00E0 (withCfg (fun c => { c with clsSetsDisplayChanged := false }) State.reset) (·.displayChanged) =
      some false := by decide

theorem test_ret_cf4 :
    stepWord 0x00EE ((((State.reset.setStack (Vector.replicate 16 0x0202)).setSp 1).setPc 0x0300))
      (fun t => (t.sp, t.pc, t.stackAt 0)) = some (0, 0x0202, some 0x0202) := by decide

theorem test_ret_cf6 :
    stepWord 0x00EE State.reset (fun t => (t.sp, t.pc, t.fault)) = some (0, 0x0200, some .emptyStack) := by decide

theorem test_jp_cf1 : stepWord 0x1ABC State.reset (·.pc) = some 0x0ABC := by decide

theorem test_call_cf3 :
    stepWord 0x2300 State.reset (fun t => (t.stackAt 0, t.sp, t.pc)) = some (some 0x0202, 1, 0x0300) := by decide

theorem test_call_cf24 :
    stepWord 0x2300 ((State.reset.setSp 15).setPc 0x0FFE) (fun t => (t.stackAt 15, t.sp, t.pc)) =
      some (some 0x1000, 16, 0x0300) := by decide

theorem test_se_imm_cf9_cf10 :
    stepWord 0x3342 (regs [(3, 0x42)]) (·.pc) = some 0x0204 ∧ stepWord 0x3343 (regs [(3, 0x42)]) (·.pc) = some 0x0202 := by decide

theorem test_sne_imm_cf11_cf12 :
    stepWord 0x4342 (regs [(3, 0x42)]) (·.pc) = some 0x0202 ∧ stepWord 0x4343 (regs [(3, 0x42)]) (·.pc) = some 0x0204 := by decide

theorem test_se_reg_cf13_cf14 :
    stepWord 0x5120 (regs [(1, 7), (2, 7)]) (·.pc) = some 0x0204 ∧ stepWord 0x5120 (regs [(1, 7), (2, 8)]) (·.pc) = some 0x0202 := by
  decide

theorem test_ld_imm_alu1 : stepWord 0x6FAA State.reset (fun t => (t.getV 15, t.pc)) = some (0xAA, 0x0202) := by decide

theorem test_add_imm_alu2 :
    stepWord 0x7102 (regs [(1, 0xFF), (15, 0x55)]) (fun t => (t.getV 1, t.getV 15)) = some (0x01, 0x55) := by decide

theorem test_ld_reg_alu4 : stepWord 0x8120 (regs [(2, 0x33)]) (fun t => (t.getV 1, t.getV 2)) = some (0x33, 0x33) := by decide

theorem test_or_alu5 :
    stepWord 0x8121 (regs [(1, 0xF0), (2, 0x0F), (15, 0x55)]) (fun t => (t.getV 1, t.getV 15)) = some (0xFF, 0x55) := by decide

theorem test_and_alu6 :
    stepWord 0x8122 (regs [(1, 0xF0), (2, 0x3C), (15, 0x55)]) (fun t => (t.getV 1, t.getV 15)) = some (0x30, 0x55) := by decide

theorem test_xor_alu7 :
    stepWord 0x8123 (regs [(1, 0xF0), (2, 0x3C), (15, 0x55)]) (fun t => (t.getV 1, t.getV 15)) = some (0xCC, 0x55) := by decide

theorem test_add_reg_s1a :
    stepWord 0x8124 (regs [(1, 0xFF), (2, 0x01)]) (fun t => (t.getV 1, t.getV 15, t.pc)) = some (0x00, 0x01, 0x0202) := by decide

theorem test_add_reg_alu12 :
    stepWord 0x8F14 (regs [(15, 0x10), (1, 0x20)]) (·.getV 15) = some 0x00 ∧
      stepWord 0x8F14 ((regs [(15, 0x10), (1, 0x20)]).withVfOrder .resultLast) (·.getV 15) = some 0x30 := by decide

theorem test_sub_s2a_s2b :
    stepWord 0x8125 (regs [(1, 5), (2, 5)]) (fun t => (t.getV 1, t.getV 15)) = some (0x00, 0x01) ∧
      stepWord 0x8125 (regs [(1, 4), (2, 5)]) (fun t => (t.getV 1, t.getV 15)) = some (0xFF, 0x00) := by decide

theorem test_shr_alu20_alu21 :
    stepWord 0x8126 ((regs [(2, 0x07)]).withShiftQuirk true) (fun t => (t.getV 1, t.getV 15, t.getV 2)) = some (3, 1, 7) ∧
      stepWord 0x8126 (regs [(2, 0x07)]) (fun t => (t.getV 1, t.getV 15)) = some (0, 0) := by decide

theorem test_subn_s2c : stepWord 0x8127 (regs [(1, 5), (2, 4)]) (fun t => (t.getV 1, t.getV 15)) = some (0xFF, 0x00) := by decide

theorem test_shl_s3b_alu25 :
    stepWord 0x810E (regs [(1, 0x81)]) (fun t => (t.getV 1, t.getV 15)) = some (0x02, 0x01) ∧
      stepWord 0x8F0E ((regs [(15, 0x81)]).withVfOrder .resultLast) (·.getV 15) = some 0x02 := by decide

theorem test_sne_reg_cf16_cf17 :
    stepWord 0x9120 (regs [(1, 7), (2, 8)]) (·.pc) = some 0x0204 ∧ stepWord 0x9110 (regs [(1, 7)]) (·.pc) = some 0x0202 := by decide

theorem test_ld_i_mem1 : stepWord 0xA123 State.reset (·.i) = some 0x0123 := by decide

theorem test_jp_v0_cf8 : stepWord 0xBFFF (regs [(0, 0xFF)]) (·.pc) = some 0x10FE := by decide

/-- With the byte B7 known to come next; the free draws are not touched. -/
theorem test_rnd_s6a :
    stepWord 0xC10F (withEnv (fun e => { e with rands := [0xB7] }) State.reset)
      (fun t => (t.getV 1, t.env.rands, t.env.draws)) = some (0x07, [], 0) := by decide

/-- A free byte, masked to nothing: 0 whatever it is (R162, S6b). -/
theorem test_rnd_free :
    probe (exec (.rnd 1 0x00) (regs [(1, 0xFF)])) (fun t => (t.getV 1, t.env.draws)) = some (0x00, 1) := by
  show some (Config.freeRand 0 &&& 0x00#8, 1) = some (0x00, 1)
  simp

theorem test_drw_s5 :
    stepWord 0xD121 ((poke (regs [(1, 60)]) 0x300 [0xFF]).setI 0x0300)
      (fun t => (t.fb[7], t.fb[0], t.fb[1], t.fb[15], t.getV 15, t.displayChanged)) =
      some (0x0F, 0xF0, 0x00, 0x00, 0x00, true) := by decide

theorem test_drw_dsp9 :
    stepWord 0xDF11 ((poke (regs [(15, 8)]) 0x300 [0x80]).setI 0x0300) (fun t => (t.fb[1], t.getV 15)) = some (0x80, 0x00) := by
  decide

theorem test_skp_cf18_cf22 :
    stepWord 0xE19E ((regs [(1, 5)]).withKeys 0x0020) (·.pc) = some 0x0204 ∧
      stepWord 0xE19E (regs [(1, 0x10)]) (fun t => (t.pc, t.fault)) = some (0x0200, some (.keyIndexOutOfRange 0x10)) := by decide

theorem test_sknp_cf20_cf21 :
    stepWord 0xE1A1 ((regs [(1, 5)]).withKeys 0x0020) (·.pc) = some 0x0202 ∧
      stepWord 0xE1A1 ((regs [(1, 5)]).withKeys 0xFFDF) (·.pc) = some 0x0204 := by decide

theorem test_ld_vx_dt_tk2 : stepWord 0xF207 (State.reset.setDt 0x3C) (·.getV 2) = some 0x3C := by decide

theorem test_ld_vx_k_s10a :
    stepWord 0xF30A State.reset (fun t => (t.waitActive, t.waitReg, t.pc, t.getV 3)) = some (true, 3, 0x0202, 0x00) := by decide

theorem test_ld_dt_vx_tk1 : stepWord 0xF115 (regs [(1, 0x3C)]) (fun t => (t.dt, t.st)) = some (0x3C, 0x00) := by decide

theorem test_ld_st_vx_tk3 : stepWord 0xF118 (regs [(1, 1)]) (fun t => (t.st, t.soundActive)) = some (1, false) := by decide

theorem test_add_i_mem2_mem3 :
    stepWord 0xF11E ((regs [(1, 1), (15, 0x55)]).setI 0x0FFF) (fun t => (t.i, t.getV 15)) = some (0x1000, 0x55) ∧
      stepWord 0xF11E ((regs [(1, 2)]).setI 0xFFFF) (·.i) = some 0x0001 := by decide

theorem test_ld_f_mem4_mem5 :
    stepWord 0xF129 (regs [(1, 0x0A)]) (·.i) = some 0x0032 ∧ stepWord 0xF129 (regs [(1, 0x1F)]) (·.i) = some 0x004B := by decide

theorem test_ld_b_s8a :
    stepWord 0xF133 ((regs [(1, 0x7B)]).setI 0x0300)
      (fun t => (t.readByte 0x300, t.readByte 0x301, t.readByte 0x302, t.i)) = some (1, 2, 3, 0x0300) := by decide

theorem test_ld_b_mem8 :
    stepWord 0xF133 (withCfg (fun c => { c with memOob := .wrap }) ((regs [(1, 0x7B)]).setI 0x0FFE))
      (fun t => (t.readByte 0xFFE, t.readByte 0xFFF, t.readByte 0x000, t.pc)) = some (1, 2, 3, 0x0202) := by decide

theorem test_ld_mem_mem10 :
    stepWord 0xF255 (((regs [(0, 1), (1, 2), (2, 3), (3, 4)]).setI 0x0300).withIndexQuirk true)
      (fun t => (t.readByte 0x300, t.readByte 0x301, t.readByte 0x302, t.readByte 0x303, t.i)) =
      some (1, 2, 3, 0, 0x0303) := by decide

theorem test_ld_mem_mem17 : stepWord 0xF055 (regs [(0, 0x12)]) (fun t => (t.readByte 0, t.i)) = some (0x12, 0) := by decide

theorem test_ld_vx_mem_mem12 :
    stepWord 0xF165 ((poke (regs [(2, 0x99)]) 0x300 [0xAA, 0xBB, 0xCC]).setI 0x0300)
      (fun t => (t.getV 0, t.getV 1, t.getV 2, t.i)) = some (0xAA, 0xBB, 0x99, 0x0300) := by decide

theorem test_ld_vx_mem_mem15 :
    stepWord 0xFF65 ((regs [(0, 9)]).setI 0x0FF8) (fun t => (t.fault, t.getV 0, t.pc)) =
      some (some (.memoryAccessOutOfBounds 0x1000), 9, 0x0200) := by decide

/-! ## Reset, host operations and the tick -/

/-- Glyph 0 and glyph F of the font, the bytes beside the font, the entry point (10_state.md R27, 70_reset_and_hazards.md R350). -/
theorem test_reset_lr5 :
    (List.range 5).map State.reset.readByte = [0xF0, 0x90, 0x90, 0x90, 0xF0] ∧
      (List.range 5).map (fun k => State.reset.readByte (75 + k)) = [0xF0, 0x80, 0xF0, 0x80, 0x80] ∧
      State.reset.readByte 80 = 0x00 ∧ State.reset.pc = 0x0200 := by decide

theorem test_frame_host6 :
    runOps [.frame] ((State.reset.setDt 2).setSt 5) (fun t => (t.dt, t.st, t.soundActive)) = some (1, 4, true) := by decide

theorem test_key_edge_s10b :
    runOps [.keyEdge 0x00E0] ((State.reset.setWaitActive true).setWaitReg 3) (fun t => (t.getV 3, t.waitActive)) =
      some (5, false) := by decide

theorem test_key_poll_host3 :
    runOps [.keyPoll 0x0030] (((State.reset.setPrevKeys 0x0020).setWaitActive true).setWaitReg 2)
      (fun t => (t.getV 2, t.prevKeys, t.waitActive)) = some (4, 0x0030, false) := by decide

theorem test_load_lr4 :
    runOps [.load [0x60, 0x01]] (State.reset.setFault (some .fullStack))
      (fun t => (t.fault, t.readByte 0x200, t.readByte 0x201, t.pc)) = some (none, 0x60, 0x01, 0x0200) := by decide

theorem test_latched_error_host7 :
    runOps [.frame, .keyEdge 1, .keyPoll 1, .tick 0] ((State.reset.setFault (some .emptyStack)).setDt 5)
      (fun t => (t.dt, t.pc, t.prevKeys, t.fault)) = some (5, 0x0200, 0, some .emptyStack) := by decide

/-- The keys of a scheduled TICK reach SKP (CF-18). -/
theorem test_tick_keys :
    runOps [.tick 0x0020] (poke (regs [(1, 5)]) 0x200 [0xE1, 0x9E]) (·.pc) = some 0x0204 := by decide

theorem test_pc_dec14_dec15 :
    stepWord 0x1200 (State.reset.setPc 0x0FFE) (·.pc) = some 0x0200 ∧
      probe (step (State.reset.setPc 0x0FFF)) (fun t => (t.pc, t.fault)) = some (0x0FFF, some .programCounterOutOfBounds) := by
  decide

theorem test_hold_tk6 :
    probe (step (withCfg (fun c => { c with keyWait := .hold })
      ((poke State.reset 0x200 [0x60, 0x01]).setWaitActive true))) (fun t => (t.pc, t.getV 0)) = some (0x0200, 0x00) := by decide

/-- Under advance the TICK after Fx0A runs, its wait still pending (V0 := 1). -/
theorem test_advance_tk8 :
    probe (step (((poke State.reset 0x202 [0x60, 0x01]).setWaitActive true).setPc 0x0202))
      (fun t => (t.waitActive, t.getV 0, t.pc)) = some (true, 0x01, 0x0204) := by decide

/-- Each operation of a schedule is the one performed (R300, R302): a frame step between two TICKs, and a drive of the index
quirk before the TICK that stores V0 at I (42_index_memory.md R206). -/
theorem test_schedule :
    runOps [.tick 0, .frame, .tick 0] (poke (State.reset.setDt 2) 0x200 [0xF1, 0x07, 0xF2, 0x07])
        (fun t => (t.getV 1, t.getV 2, t.dt)) = some (2, 1, 1) ∧
      runOps [.drive false true, .tick 0] ((poke State.reset 0x200 [0xF0, 0x55]).setI 0x0300) (·.i) = some 0x0301 := by decide

/-- The one run from bare reset (log 9, LR-3): zero-filled memory is an illegal word. -/
theorem test_reset_step : probe (step State.reset) (·.fault) = some (some (.badOperation 0x00 0x00)) := by decide

/-! ## Witnesses: for each statement with hypotheses, a state and operands that meet them all, at the edges of their ranges

A statement without hypotheses needs none; one with clauses has a line for each. -/

/-- A state far from reset that the invariant allows: a full stack of the largest entries, the last PC that can be fetched at,
one cell of memory. -/
def deep : State :=
  ((poke State.reset 0x300 [0xFF]).setStack (Vector.replicate 16 0x1000)).setSp 16 |>.setPc 0x0FFE

theorem deep_inv : deep.Inv := ⟨by decide, by decide, by decide, by decide⟩

/-- DecodeOfEncodeIsIdentity: both ways to meet the policy. -/
theorem witness_decode_of_encode :
    (Instr.sys 0xFFF).wf = true ∧ (SysPolicy.nop = SysPolicy.nop ∨ ∀ nnn, Instr.sys 0xFFF ≠ .sys nnn) ∧
      (Instr.drw 15 15 15).wf = true ∧ (SysPolicy.fault = SysPolicy.nop ∨ ∀ nnn, Instr.drw 15 15 15 ≠ .sys nnn) := by
  refine ⟨by decide, .inl rfl, by decide, .inr fun nnn h => ?_⟩
  cases h

/-- DecodedWordsEncodeBack. -/
theorem witness_decoded_word : decode .fault 0xFF 0x65 = .instr (.ldVxMem 15) := by decide

/-- IllegalWordsRaiseBadOperation: words outside and inside group 0, and a tick that fetches one at the last legal PC. -/
theorem witness_illegal_words :
    (0x81 * 256 + 0x28) / 4096 ≠ 0 ∧ (0x00 * 256 + 0x00) / 4096 = 0 ∧
      decode .nop 0x81 0x28 = .badOperation 0x81 0x28 ∧ (State.reset.setPc 0x0FFE).fault = none ∧
      (State.reset.setPc 0x0FFE).cfg.keyWait = .advance ∧ (State.reset.setPc 0x0FFE).pc.toNat ≤ 0xFFE ∧
      decode (State.reset.setPc 0x0FFE).cfg.sysPolicy ((State.reset.setPc 0x0FFE).readByte 0xFFE)
        ((State.reset.setPc 0x0FFE).readByte 0xFFF) = .badOperation 0x00 0x00 := by decide

/-- The hypothesis of VfOrderMattersOnlyAtVf at x, y and s, quirk off: the flag-writing operations with the numbers of their
rules. -/
def flagOps (x y : Nibble) (s : State) : List (Instr × Nat × Bool) :=
  let a := (s.getV x).toNat
  let b := (s.getV y).toNat
  [(.addReg x y, (a + b) % 256, decide (a + b ≥ 256)), (.subReg x y, (256 + a - b) % 256, decide (a ≥ b)),
    (.subnReg x y, (256 + b - a) % 256, decide (b ≥ a)), (.shr x y, a / 2, decide (a % 2 = 1)),
    (.shl x y, a * 2 % 256, decide (a ≥ 128))]

/-- VfOrderMattersOnlyAtVf: a destination beside VF (0x10 - 0x20 borrows) and VF itself (0x81 shifted left). -/
theorem witness_vf_order :
    (Instr.subReg 14 15, 240, false) ∈ flagOps 14 15 (regs [(14, 0x10), (15, 0x20)]) ∧ (14#4 : Nibble) ≠ 15 ∧
      (Instr.shl 15 0, 2, true) ∈ flagOps 15 0 (regs [(15, 0x81)]) ∧ (regs [(15, 0x81)]).env.shiftReadsVy = false := by decide

/-- BcdDigitsAreStored, DrawXorsTheCoveredPixels: the last data that fits, the first that does not, and the same under wrap;
no row at all fits anywhere. -/
theorem witness_data_in_reach :
    DataInReach (State.reset.setI 0x0FFD) 3 ∧ ¬ DataInReach (State.reset.setI 0x0FFE) 3 ∧
      DataInReach (withCfg (fun c => { c with memOob := .wrap }) (State.reset.setI 0xFFFF)) 3 ∧
      DataInReach (State.reset.setI 0xFFFF) 0 ∧ (State.reset.setI 0x0FFD).memOk := by
  refine ⟨.inr (.inr (by decide)), ?_, .inl rfl, .inr (.inl rfl), by decide⟩
  rintro (h | h | h) <;> revert h <;> decide

/-- RegistersAreStored, RegistersAreLoaded: one register and all sixteen. -/
theorem witness_registers_in_reach :
    DataInReach (State.reset.setI 0x0FFF) ((0#4).toNat + 1) ∧ ¬ DataInReach (State.reset.setI 0x1000) ((0#4).toNat + 1) ∧
      DataInReach (State.reset.setI 0x0FF0) ((15#4).toNat + 1) ∧ ¬ DataInReach (State.reset.setI 0x0FF1) ((15#4).toNat + 1) := by
  refine ⟨.inr (.inr (by decide)), ?_, .inr (.inr (by decide)), ?_⟩ <;> rintro (h | h | h) <;> revert h <;> decide

/-- StoredCodeIsFetched: the last place the bytes of LD [I], V1 and of LD B, V1 fit, each with a fetch at the last PC. -/
theorem witness_stored_code :
    (State.reset.setI 0x0FFE).memOk ∧ (0x0FFE#16).toNat ≤ 0xFFE ∧ DataInReach (State.reset.setI 0x0FFE) ((1#4).toNat + 1) ∧
      (State.reset.setI 0x0FFD).memOk ∧ DataInReach (State.reset.setI 0x0FFD) 3 :=
  ⟨by decide, by decide, .inr (.inr (by decide)), by decide, .inr (.inr (by decide))⟩

/-- What StoredCodeIsFetched claims there (20_memory.md R64; V1 = 123): both fetched bytes new; the high byte alone stored, and
under wrap a fetch at 0x000. -/
theorem test_stored_code_mem18 :
    stepWord 0xF155 ((regs [(0, 0x60), (1, 0x09)]).setI 0x0FFE) (fun t => (t.setPc 0x0FFE).fetch) = some (0x60, 0x09) ∧
      stepWord 0xF133 ((regs [(1, 123)]).setI 0x0FFD) (fun t => (t.setPc 0x0FFE).fetch) = some (2, 3) ∧
      stepWord 0xF133 (withCfg (fun c => { c with memOob := .wrap }) ((regs [(1, 123)]).setI 0x0FFE))
        (fun t => (t.setPc 0x0000).fetch) = some (3, 0x90) := by decide

/-- KeySkipsTestTheKeysInput, KeyIndexWrapsUnderMod16: 15, 16 under mod16, 16 under fault. -/
theorem witness_key_index :
    ((regs [(1, 15)]).getV 1).toNat ≤ 15 ∧
      (withCfg (fun c => { c with keyIndex := .mod16 }) (regs [(1, 16)])).cfg.keyIndex = .mod16 ∧
      15 < ((regs [(1, 16)]).getV 1).toNat ∧ (regs [(1, 16)]).cfg.keyIndex = .fault := by decide

/-- CallPushesTheReturnAddress, ReturnPopsTheStack, IllegalStackPointerStops: SP at 0, 15, 16 and 17. -/
theorem witness_stack_pointer :
    State.reset.sp.toNat = 0 ∧ (State.reset.setSp 15).sp.toNat < 16 ∧ (State.reset.setSp 16).sp.toNat = 16 ∧
      1 ≤ (State.reset.setSp 16).sp.toNat ∧ (State.reset.setSp 1).sp.toNat ≤ 16 ∧ 16 < (State.reset.setSp 17).sp.toNat := by decide

/-- NestedCallsUnwindInOrder: two calls that fill the stack, one of them or both undone. -/
theorem witness_nested_calls :
    (State.reset.setSp 14).sp.toNat + [(0x300#12 : Addr), 0xFFF#12].length ≤ 16 ∧ 1 ≤ 1 ∧
      1 ≤ [(0x300#12 : Addr), 0xFFF#12].length ∧ 2 = [(0x300#12 : Addr), 0xFFF#12].length := by decide

/-- The effect NestedCallsUnwindInOrder claims, on that stack: after two calls and one return PC is behind the second call. -/
theorem test_nested_calls :
    probe (runInstrs [.call 0x300, .call 0xFFF, .ret] (State.reset.setSp 14)) (fun t => (t.pc, t.sp)) = some (0x0302, 15) := by
  decide

/-- SysExecutesOnlyUnderNop. -/
theorem witness_sys :
    (0x01#8 = 0x0#4 ++ (0x123#12).extractLsb' 8 4 ∧ 0x23#8 = (0x123#12).extractLsb' 0 8) ∧ 0x123#12 ≠ 0x0E0#12 ∧
      0x123#12 ≠ 0x0EE#12 ∧
      (withCfg (fun c => { c with sysPolicy := .nop }) State.reset).cfg.sysPolicy = .nop := by decide

/-- PcMovesByTheDirective: an error, an advance, a skip and a jump, each from the last PC that can be fetched at. -/
theorem witness_pc_moves :
    deep.Inv ∧ deep.pc.toNat ≤ 0xFFE ∧ probe (exec (.call 0x300) deep) (·.pc) = some 0x0FFE ∧
      probe (exec .cls deep) (·.pc) = some 0x1000 ∧ probe (exec (.seImm 0 0) deep) (·.pc) = some 0x1002 ∧
      probe (exec .ret deep) (·.pc) = some 0x1000 := ⟨deep_inv, by decide⟩

/-- DrawTwiceRestoresTheScreen: the state between the draws is the first draw's end with its VF and PC; the sprite here is
drawn at V0, V0. -/
theorem witness_draw_twice :
    DataInReach (State.reset.setI 0x0300) (1#4).toNat ∧
      ∃ t, exec (.drw 0 0 1) (State.reset.setI 0x0300) = .next t ∧ t.getV 0 = (State.reset.setI 0x0300).getV 0 ∧
        t.i = (State.reset.setI 0x0300).i ∧ t.cfg = (State.reset.setI 0x0300).cfg ∧
        ∀ a, t.readByte a = (State.reset.setI 0x0300).readByte a :=
  ⟨.inr (.inr (by decide)), _, rfl, by decide, rfl, rfl, fun _ => rfl⟩

/-- AdvanceIgnoresTheWait: a wait pending under advance, at the last PC that is fetched at and the first that is not. -/
theorem witness_advance :
    (State.reset.setWaitActive true).cfg.keyWait = .advance ∧ (State.reset.setWaitActive true).fault = none ∧
      ((State.reset.setWaitActive true).setPc 0x0FFE).pc.toNat ≤ 0xFFE ∧
      0xFFE < ((State.reset.setWaitActive true).setPc 0x0FFF).pc.toNat := by decide

/-- HoldStallsTheTick. -/
theorem witness_hold :
    ((withCfg (fun c => { c with keyWait := .hold }) State.reset).setWaitActive true).fault = none ∧
      ((withCfg (fun c => { c with keyWait := .hold }) State.reset).setWaitActive true).cfg.keyWait = .hold ∧
      ((withCfg (fun c => { c with keyWait := .hold }) State.reset).setWaitActive true).waitActive = true ∧
      0x8000#16 ≠ 0#16 := by decide

/-- FrameStepCountsTheTimersDown, SoundLastsOneFrameLess: a running block with ST at 0, 1 and 2, and a latched error. -/
theorem witness_frame :
    State.reset.fault = none ∧ (State.reset.setSt 1).fault = none ∧ (State.reset.setFault (some .emptyStack)).fault ≠ none ∧
      [0, 1, 2].map (fun b => probe (runOp .frame (State.reset.setSt b)) (fun t => (t.st, t.soundActive))) =
        [some (0, false), some (0, false), some (1, true)] := by decide

/-- KeyEdgeResolvesTheWait: the highest key alone, and each way to be a no-op. -/
theorem witness_key_edge :
    (State.reset.setWaitActive true).fault = none ∧ (State.reset.setWaitActive true).waitActive = true ∧ 0x8000#16 ≠ 0#16 ∧
      (State.reset.setFault (some .fullStack)).fault ≠ none ∧ State.reset.waitActive = false := by decide

/-- KeyPollPassesNewPresses: a latched error; a wait with key 15 newly down; a wait with it held since the last poll. -/
theorem witness_key_poll :
    (State.reset.setFault (some .fullStack)).fault ≠ none ∧
      ((State.reset.setWaitActive true).waitActive = true ∧
        ∃ k, k < 16 ∧ (0x8000#16).getLsbD k = true ∧ (State.reset.setWaitActive true).prevKeys.getLsbD k = false) ∧
      (∀ k, k < 16 → (0x8000#16).getLsbD k = true → ((State.reset.setWaitActive true).setPrevKeys 0x8000).prevKeys.getLsbD k = true) :=
  ⟨by decide, ⟨by decide, 15, by decide⟩, by decide⟩

/-- LoadIsAllOrNothing, FaultedBlockIsTerminal: no byte, the longest image, and one byte more (test_load_while_faulted has it
with an error latched). -/
theorem witness_load :
    ([] : List Byte).length ≤ 3584 ∧ (List.replicate 3584 (0x60 : Byte)).length ≤ 3584 ∧
      3584 < (List.replicate 3585 (0x60 : Byte)).length := by
  simp only [List.length_replicate]
  decide

/-- PcIsCheckedBeforeFetch: the last PC that is fetched at, with a wait pending under advance, and the first that is not,
under hold with no wait pending. -/
theorem witness_pc_check :
    ((State.reset.setPc 0x0FFE).setWaitActive true).fault = none ∧
      ((State.reset.setPc 0x0FFE).setWaitActive true).cfg.keyWait = .advance ∧
      ((State.reset.setPc 0x0FFE).setWaitActive true).pc.toNat ≤ 0xFFE ∧ (State.reset.setPc 0x0FFF).fault = none ∧
      (withCfg (fun c => { c with keyWait := .hold }) (State.reset.setPc 0x0FFF)).waitActive = false ∧ 0xFFE < (State.reset.setPc 0x0FFF).pc.toNat := by decide

/-- FaultedBlockIsTerminal. -/
theorem witness_faulted : (State.reset.setFault (some .emptyStack)).fault = some .emptyStack := rfl

/-- ErrorsArePrecise: a TICK that raises one, and a LOAD that does. -/
theorem witness_precise :
    probe (runOp (.tick 0x0001) State.reset) (·.fault) = some (some (.badOperation 0 0)) ∧
      probe (runOp (.load (List.replicate 3585 0x60)) State.reset) (·.fault) = some (some .memoryOverflow) ∧
      State.reset.fault = none := by
  refine ⟨by decide, ?_, rfl⟩
  have h : (List.replicate 3585 (0x60 : Byte)).length > maxImage := by
    simp only [List.length_replicate]
    decide
  simp only [probe, runOp, loadImage, if_pos h]
  rfl

/-- A LOAD that does not fit, on a block already faulted: MemoryOverflow is answered (60_exceptions.md R300), and latched as
70_reset_and_hazards.md R353 has it or not, as R313 has it (log 17). -/
theorem test_load_while_faulted :
    ([FailedLoad.replacesError, .keepsError].map fun c =>
      probe (runOp (.load (List.replicate 3585 0x60))
          (withCfg (fun d => { d with failedLoad := c }) (State.reset.setFault (some .fullStack))))
        (fun t => (t.fault, opResult (.load (List.replicate 3585 0x60)) t))) =
      [some (some .memoryOverflow, some .memoryOverflow), some (some .fullStack, some .memoryOverflow)] := by
  have h : (List.replicate 3585 (0x60 : Byte)).length > maxImage := by
    simp only [List.length_replicate]
    decide
  simp only [List.map, probe, runOp, opResult, loadImage, if_pos h]
  rfl

/-- The word of `LD VA, 0x0A` at the last PC that can be fetched at. -/
def atTheEdge : State := (poke State.reset 0xFFE [0x6A, 0x0A]).setPc 0x0FFE

/-- StepRunsTheDecodedInstruction: nothing scheduled, and a scheduled TICK; a wait pending under advance; another operation
scheduled. -/
theorem witness_step_runs :
    atTheEdge.fault = none ∧ (atTheEdge.setWaitActive true).cfg.keyWait = .advance ∧ atTheEdge.waitActive = false ∧
      (withEnv (fun e => { e with ops := [.drive true false, .frame] }) atTheEdge).env.ops = .drive true false :: [.frame] ∧
      atTheEdge.pc.toNat ≤ 0xFFE ∧
      decode atTheEdge.cfg.sysPolicy (atTheEdge.readByte 0xFFE) (atTheEdge.readByte 0xFFF) = .instr (.ldImm 10 0x0A) ∧
      atTheEdge.env.ops = [] ∧
      (withEnv (fun e => { e with ops := [.tick 0xFFFF] }) atTheEdge).env.ops = .tick 0xFFFF :: [] := by decide

/-- PlacedWordRunsNext: a word that is not SYS under the default policy, and SYS under nop. -/
theorem witness_placed_word :
    State.reset.memOk ∧ decodeTableWord 16 0x00E0 = some .cls ∧ (∀ nnn, Instr.cls ≠ .sys nnn) ∧
      decodeTableWord 16 0x0123 = some (.sys 0x123) ∧
      (withCfg (fun c => { c with sysPolicy := .nop }) State.reset).cfg.sysPolicy = .nop :=
  ⟨by decide, by decide, (fun nnn h => nomatch h), by decide, rfl⟩

/-- StepKeepsInvariant, StepNeverStops, EveryScheduleIsCarriedOut: a state of the invariant that steps, with nothing scheduled
and with a schedule. -/
theorem witness_invariant :
    deep.Inv ∧ probe (step deep) (·.fault) = some (some (.badOperation 0 0)) ∧
      (withEnv (fun e => { e with ops := [.frame, .reset] }) deep).env.ops ≠ [] := ⟨deep_inv, by decide⟩

/-- RunIsSafeWhenItsEndIs: nothing scheduled; a run that is safe (a jump to itself, CF-2) and one that is not. -/
theorem witness_safe_run :
    (poke State.reset 0x200 [0x12, 0x00]).env.ops = [] ∧
      probe (Sys2Proof.core.run 3 (poke State.reset 0x200 [0x12, 0x00])) (fun t => (t.fault, t.pc)) = some (none, 0x0200) ∧
      probe (Sys2Proof.core.run 1 State.reset) (·.fault) = some (some (.badOperation 0 0)) := by decide

/-- ParametersNeverChange: a next state. -/
theorem witness_step_next : ∃ t, step State.reset = .next t := ⟨_, rfl⟩

/-- OnlyNamedInstructionsWrite: next states in which the premises of its clauses hold: a V register written, by name and as
the flag; an error raised, PC in place; a PC that neither advances nor stays; SP and the stack; I; a timer; memory; FB and
display_changed. -/
theorem witness_next_state :
    probe (exec (.ldVxMem 15) State.reset) (fun t => (t.getV 0, t.getV 15)) = some (0xF0, 0xF0) ∧
      probe (exec (.addReg 1 2) (regs [(1, 0xFF), (2, 1)])) (fun t => (t.getV 1, t.getV 15)) = some (0, 1) ∧
      probe (exec .ret State.reset) (fun t => (t.fault, t.pc)) = some (some .emptyStack, 0x0200) ∧
      probe (exec (.seImm 0 0) State.reset) (·.pc) = some 0x0204 ∧
      probe (exec (.call 0x300) State.reset) (fun t => (t.pc, t.sp, t.stack[0])) = some (0x0300, 1, 0x0202) ∧
      probe (exec (.addIVx 1) (regs [(1, 1)])) (·.i) = some 1 ∧
      probe (exec (.ldStVx 1) (regs [(1, 1)])) (·.st) = some 1 ∧
      probe (exec (.ldMemVx 0) (State.reset.setI 0x0300 |>.setV 0 7)) (·.readByte 0x300) = some 7 ∧
      probe (exec (.drw 0 0 1) State.reset) (fun t => (t.fb[0], t.displayChanged)) = some (0xF0, true) := by
  decide

/-- OnlyKeySkipsReadTheKeys, QuirksReachOnlyTheirInstructions, UnreadStateReachesNothingElse: RND is none of the named ones. -/
theorem witness_none_of_the_named :
    (∀ x, Instr.rnd 1 0xFF ≠ .skp x ∧ Instr.rnd 1 0xFF ≠ .sknp x) ∧
      (∀ x y, Instr.rnd 1 0xFF ≠ .shr x y ∧ Instr.rnd 1 0xFF ≠ .shl x y) ∧
      (∀ x, Instr.rnd 1 0xFF ≠ .ldMemVx x ∧ Instr.rnd 1 0xFF ≠ .ldVxMem x) ∧
      (∀ x, Instr.rnd 1 0xFF ≠ .ldStVx x) ∧ (∀ x, Instr.rnd 1 0xFF ≠ .ldVxK x) ∧ Instr.rnd 1 0xFF ≠ .cls ∧
      (∀ x y n, Instr.rnd 1 0xFF ≠ .drw x y n) ∧ ∀ x, Instr.rnd 1 0xFF ≠ .ldVxDt x ∧ Instr.rnd 1 0xFF ≠ .ldDtVx x := by
  simp

end Sys2Proof.Tests
end

/-! PROOFS of the encoding family (30_encoding.md): which words are illegal and how PC can move. -/

/-! ## The fields as parts of the word -/

namespace Sys2Proof

theorem word_div_4096 (b1 b2 : Byte) : (b1.toNat * 256 + b2.toNat) / 4096 = (fieldOp b1).toNat := by
  have := b1.isLt
  have := b2.isLt
  simp only [fieldOp, hiNibble, BitVec.extractLsb'_toNat, Nat.shiftRight_eq_div_pow]
  omega

theorem word_mod_16 (b1 b2 : Byte) : (b1.toNat * 256 + b2.toNat) % 16 = (fieldN b2).toNat := by
  simp only [fieldN, loNibble, BitVec.extractLsb'_toNat, Nat.shiftRight_eq_div_pow]
  omega

theorem word_mod_256 (b1 b2 : Byte) : (b1.toNat * 256 + b2.toNat) % 256 = b2.toNat := by
  have := b2.isLt
  omega

/-- A word determines its bytes. -/
theorem word_eq_iff (b1 b2 c1 c2 : Byte) :
    b1.toNat * 256 + b2.toNat = c1.toNat * 256 + c2.toNat ↔ b1 = c1 ∧ b2 = c2 := by
  have := b2.isLt
  have := c2.isLt
  rw [← BitVec.toNat_inj, ← BitVec.toNat_inj]
  omega

/-! ## What the table leaves out -/

theorem decodeGroup8_eq_none_iff {x y n : Nibble} : decodeGroup8 x y n = none ↔ 7 < n.toNat ∧ n.toNat ≠ 14 := by
  unfold decodeGroup8
  split
  case h_10 =>
    simp_all only [imp_false, ← BitVec.toNat_inj, BitVec.toNat_ofNat, true_iff]
    omega
  all_goals simp

theorem decodeGroupE_eq_none_iff {x : Nibble} {kk : Byte} : decodeGroupE x kk = none ↔ kk.toNat ∉ [0x9E, 0xA1] := by
  unfold decodeGroupE
  split <;> simp_all [← BitVec.toNat_inj]

theorem decodeGroupF_eq_none_iff {x : Nibble} {kk : Byte} :
    decodeGroupF x kk = none ↔ kk.toNat ∉ [0x07, 0x0A, 0x15, 0x18, 0x1E, 0x29, 0x33, 0x55, 0x65] := by
  unfold decodeGroupF
  split <;> simp_all [← BitVec.toNat_inj]

/-- The words no row of the opcode map matches, by group (30_encoding.md R91). -/
theorem decodeTable_eq_none_iff {b1 b2 : Byte} :
    decodeTable b1 b2 = none ↔
      ((fieldOp b1).toNat = 5 ∧ (fieldN b2).toNat ≠ 0) ∨
      ((fieldOp b1).toNat = 8 ∧ 7 < (fieldN b2).toNat ∧ (fieldN b2).toNat ≠ 14) ∨
      ((fieldOp b1).toNat = 9 ∧ (fieldN b2).toNat ≠ 0) ∨
      ((fieldOp b1).toNat = 14 ∧ b2.toNat ∉ [0x9E, 0xA1]) ∨
      ((fieldOp b1).toNat = 15 ∧ b2.toNat ∉ [0x07, 0x0A, 0x15, 0x18, 0x1E, 0x29, 0x33, 0x55, 0x65]) := by
  unfold decodeTable
  split
  case h_6 h => simp [h, ← BitVec.toNat_inj]
  case h_9 h => simp [h, decodeGroup8_eq_none_iff]
  case h_10 h => simp [h, ← BitVec.toNat_inj]
  case h_15 h => simp [h, decodeGroupE_eq_none_iff]
  case h_16 =>
    have hF : (fieldOp b1).toNat = 15 := by
      simp_all only [imp_false, ← BitVec.toNat_inj, BitVec.toNat_ofNat]
      omega
    simp [hF, decodeGroupF_eq_none_iff]
  all_goals simp [*]

/-! ## SYS -/

theorem exists_decodeGroup0_eq_sys_iff {b1 b2 : Byte} :
    (∃ nnn, decodeGroup0 b1 b2 = .sys nnn) ↔ ¬ (b1 = 0x00#8 ∧ b2 = 0xE0#8) ∧ ¬ (b1 = 0x00#8 ∧ b2 = 0xEE#8) := by
  unfold decodeGroup0
  split
  · simp [*]
  · split <;> simp [*]

/-- Only group 0 holds SYS: every word of it but those of CLS and RET (30_encoding.md R92). -/
theorem exists_decodeTable_eq_sys_iff {b1 b2 : Byte} :
    (∃ nnn, decodeTable b1 b2 = some (.sys nnn)) ↔
      (fieldOp b1).toNat = 0 ∧ ¬ (b1 = 0x00#8 ∧ b2 = 0xE0#8) ∧ ¬ (b1 = 0x00#8 ∧ b2 = 0xEE#8) := by
  rw [← exists_decodeGroup0_eq_sys_iff]
  unfold decodeTable
  split
  case h_6 h => split <;> simp [h]
  case h_9 h =>
    simp only [h, decodeGroup8]
    split <;> simp
  case h_10 h => split <;> simp [h]
  case h_15 h =>
    simp only [h, decodeGroupE]
    split <;> simp
  case h_16 =>
    have h0 : (fieldOp b1).toNat ≠ 0 := by simp_all [← BitVec.toNat_inj]
    simp only [h0, decodeGroupF]
    split <;> simp
  all_goals simp [*]

/-! ## The words that raise BadOperation -/

/-- An illegal word is one no row matches, or a SYS word under SYS_POLICY = fault; its error holds its two bytes. -/
theorem decode_eq_badOperation_iff {p : SysPolicy} {b1 b2 c1 c2 : Byte} :
    decode p b1 b2 = .badOperation c1 c2 ↔
      (c1 = b1 ∧ c2 = b2) ∧ (decodeTable b1 b2 = none ∨ p = .fault ∧ ∃ nnn, decodeTable b1 b2 = some (.sys nnn)) := by
  cases ht : decodeTable b1 b2 with
  | none => simp [decode_of_none ht, eq_comm]
  | some i =>
    by_cases hs : ∃ nnn, i = .sys nnn
    · obtain ⟨nnn, rfl⟩ := hs
      cases p <;> simp [decode_of_sys ht, eq_comm]
    · have hs' : ∀ nnn, i ≠ .sys nnn := fun nnn h => hs ⟨nnn, h⟩
      simp [decode_of_table ht hs', hs']

/-- Outside group 0 SYS_POLICY changes nothing (30_encoding.md R94). -/
theorem decode_eq_of_not_group0 {b1 b2 : Byte} (h : (fieldOp b1).toNat ≠ 0) (p q : SysPolicy) :
    decode p b1 b2 = decode q b1 b2 := by
  cases ht : decodeTable b1 b2 with
  | none => rw [decode_of_none ht, decode_of_none ht]
  | some i =>
    have hs : ∀ nnn, i ≠ .sys nnn := fun nnn hi => h (exists_decodeTable_eq_sys_iff.mp ⟨nnn, hi ▸ ht⟩).1
    rw [decode_of_table ht hs, decode_of_table ht hs]

/-- Under nop group 0 has no illegal word (30_encoding.md R92). -/
theorem decode_nop_ne_badOperation {b1 b2 c1 c2 : Byte} (h : (fieldOp b1).toNat = 0) :
    decode .nop b1 b2 ≠ .badOperation c1 c2 := by
  simp [decode_eq_badOperation_iff, decodeTable_eq_none_iff, h]

end Sys2Proof

namespace Sys2Proof.Machine

/-- Error entry writes the latch alone (60_exceptions.md R309, R310). -/
theorem raise_takesError (e : MachineError) (s : State) : TakesError (raise e s) s e := by
  refine ⟨_, raise_eq e s, rfl, fun p hp => ?_⟩
  cases p
  case fault => simp at hp
  all_goals simp [Piece.same]

/-- A TICK that reaches decode and finds an illegal word is error entry (30_encoding.md R91). -/
theorem tick_takesError_of_badOperation {s : State} (hf : s.fault = none)
    (hw : s.cfg.keyWait = .advance ∨ s.waitActive = false) (hp : s.pc.toNat ≤ 0xFFE)
    (hd : decode s.cfg.sysPolicy s.fetch.1 s.fetch.2 = .badOperation s.fetch.1 s.fetch.2) :
    TakesError (tick s) s (.badOperation s.fetch.1 s.fetch.2) := by
  have hs : s.stalled = false := s.stalled_eq_false.mpr hw
  rcases tick_cases s with ⟨h, -⟩ | ⟨-, h, -⟩ | ⟨-, -, h, -⟩ | ⟨-, -, -, -, ht⟩ | ⟨-, -, -, i, h, -⟩
  · simp [hf] at h
  · simp [hs] at h
  · omega
  · exact ht ▸ raise_takesError _ s
  · simp [hd] at h

/-- Settles O3: which words the table leaves out, and what SYS_POLICY adds, group by group. -/
theorem illegalWordsRaiseBadOperation : Obligations.IllegalWordsRaiseBadOperation := by
  refine ⟨fun b1 b2 => ?_, fun p b1 b2 c1 c2 h => (decode_eq_badOperation_iff.mp h).1, ?_⟩
  · have hcls : b1.toNat * 256 + b2.toNat = 0x00E0 ↔ b1 = 0x00#8 ∧ b2 = 0xE0#8 := word_eq_iff b1 b2 0x00 0xE0
    have hret : b1.toNat * 256 + b2.toNat = 0x00EE ↔ b1 = 0x00#8 ∧ b2 = 0xEE#8 := word_eq_iff b1 b2 0x00 0xEE
    dsimp only
    rw [word_div_4096, word_mod_16, word_mod_256]
    refine ⟨?_, fun h => decode_eq_of_not_group0 h _ _, decode_nop_ne_badOperation⟩
    rw [decode_eq_badOperation_iff, decodeTable_eq_none_iff, exists_decodeTable_eq_sys_iff, ← hcls, ← hret]
    simp only [and_self, true_and]
    exact or_comm
  · rintro s b1 b2 hf hw hp rfl rfl hd
    exact tick_takesError_of_badOperation hf hw hp hd

/-! ## How PC can move -/

/-- All that an instruction's next state can be: error entry, or its directive applied to a state that kept PC. -/
theorem exec_next_cases {i : Instr} {s t : State} (h : s.sp.toNat ≤ 16) (ht : exec i s = .next t) :
    (∃ e, MayRaise i s e ∧ t = s.setFault (some e)) ∨
      ∃ d u, MayDirect i s d ∧ Spares i s u ∧ t = u.setPc (applyDirective d s.pc) := by
  rcases exec_cases i s (.inl h) with ⟨e, he, hx⟩ | ⟨d, u, hx, hu, hd⟩
  · rw [ht, raise_eq] at hx
    exact .inl ⟨e, he, by injection hx⟩
  · rw [ht, complete_eq, hu.pc] at hx
    exact .inr ⟨d, u, hd, hu, by injection hx⟩

/-- From a PC that was fetched at, a step of two or four bytes does not wrap (30_encoding.md R96). -/
theorem fetched_pc_add_toNat {pc : Word} (h : pc.toNat ≤ 0xFFE) :
    (pc + 2).toNat = pc.toNat + 2 ∧ (pc + 4).toNat = pc.toNat + 4 := by
  constructor <;> bv_omega

/-- The farthest target of JP V0 is 0xFFF + 0xFF: the sum does not wrap (40_control_flow.md R114). -/
theorem jpV0_target_le (nnn : Addr) (b : Byte) : (zextAddr nnn + zextByte b).toNat ≤ 0x10FE := by
  have := nnn.isLt
  have := b.isLt
  rw [BitVec.toNat_add, zextAddr_toNat, zextByte_toNat]
  omega

/-- No directive leads past 0x10FE from a PC that was fetched at (30_encoding.md R96). -/
theorem applyDirective_le {i : Instr} {s : State} {d : Directive} (hs : s.Inv) (hp : s.pc.toNat ≤ 0xFFE)
    (hd : MayDirect i s d) : (applyDirective d s.pc).toNat ≤ 0x10FE := by
  obtain ⟨h2, h4⟩ := fetched_pc_add_toNat hp
  rcases hd with rfl | ⟨rfl, -⟩ | ⟨nnn, -, rfl⟩ | ⟨nnn, -, rfl⟩ | ⟨-, k, hk, rfl⟩
  · rw [applyDirective_advance]
    omega
  · rw [applyDirective_skipNext]
    omega
  · have := nnn.isLt
    rw [applyDirective_jumpTo, zextAddr_toNat]
    omega
  · exact jpV0_target_le nnn _
  · exact (hs.stackBounded k hk).trans (by decide)

/-- Settles O28: an error keeps PC, and each directive an instruction may return is bounded and its own. -/
theorem pcMovesByTheDirective : Obligations.PcMovesByTheDirective := by
  intro i s t hs hp ht
  rcases exec_next_cases hs.spLegal ht with ⟨e, -, rfl⟩ | ⟨d, u, hd, -, rfl⟩
  · exact ⟨hs.pcBounded, fun _ => .inl ⟨rfl, by simp⟩⟩
  · refine ⟨applyDirective_le hs hp hd, fun ⟨hret, hjump⟩ => .inr ?_⟩
    obtain ⟨h2, h4⟩ := fetched_pc_add_toNat hp
    rcases hd with rfl | ⟨rfl, hskip⟩ | ⟨nnn, hi, -⟩ | ⟨nnn, hi, -⟩ | ⟨hi, -⟩
    · exact .inl h2
    · exact .inr ⟨h4, hskip⟩
    · obtain ⟨hjp, hcall, -⟩ := hjump nnn
      exact (hi.elim hjp hcall).elim
    · obtain ⟨-, -, hv0⟩ := hjump nnn
      exact absurd hi hv0
    · exact absurd hi hret

end Sys2Proof.Machine

/-! PROOFS of the control flow family (40_control_flow.md): the jump to nnn and the skips that compare registers. -/

/-! ## The words of the jump and of the compare skips -/

namespace Sys2Proof

/-- 1nnn is JP nnn (40_control_flow.md R112). -/
theorem decode_jp (p : SysPolicy) (nnn : Addr) :
    decode p (0x1#4 ++ nnn.extractLsb' 8 4) (nnn.extractLsb' 0 8) = .instr (.jp nnn) :=
  decode_of_table (by simp [decodeTable]) (by simp) p

/-- 3xkk is SE Vx, kk (40_control_flow.md R115). -/
theorem decode_seImm (p : SysPolicy) (x : Nibble) (kk : Byte) : decode p (0x3#4 ++ x) kk = .instr (.seImm x kk) :=
  decode_of_table (by simp [decodeTable]) (by simp) p

/-- 4xkk is SNE Vx, kk (40_control_flow.md R116). -/
theorem decode_sneImm (p : SysPolicy) (x : Nibble) (kk : Byte) : decode p (0x4#4 ++ x) kk = .instr (.sneImm x kk) :=
  decode_of_table (by simp [decodeTable]) (by simp) p

/-- 5xy0 is SE Vx, Vy (40_control_flow.md R117). -/
theorem decode_seReg (p : SysPolicy) (x y : Nibble) :
    decode p (0x5#4 ++ x) (y ++ 0x0#4) = .instr (.seReg x y) :=
  decode_of_table (by simp [decodeTable]) (by simp) p

/-- 9xy0 is SNE Vx, Vy (40_control_flow.md R118). -/
theorem decode_sneReg (p : SysPolicy) (x y : Nibble) :
    decode p (0x9#4 ++ x) (y ++ 0x0#4) = .instr (.sneReg x y) :=
  decode_of_table (by simp [decodeTable]) (by simp) p

end Sys2Proof

/-! ## Completing with no write but that of PC -/

namespace Sys2Proof.Machine

/-- A write of PC leaves every other piece. -/
theorem State.setPc_keepsAllBut (s : State) (a : Word) : KeepsAllBut [.pc] s (s.setPc a) := by
  intro p hp
  cases p
  case pc => simp at hp
  all_goals simp [Piece.same]

/-- An instruction that only jumps completes with PC at its target, every other piece as it was. -/
theorem complete_jumpTo_answers (a : Word) (s : State) :
    Answers (complete (.jumpTo a) s) fun t => t.pc = a ∧ KeepsAllBut [.pc] s t :=
  ⟨_, complete_eq _ s, rfl, s.setPc_keepsAllBut a⟩

/-- An instruction that only skips completes, and PC passes the next instruction exactly if its test b stands for a
condition c that holds. -/
theorem complete_skipIf_answers {b : Bool} {c : Prop} (hb : b = true ↔ c) (s : State) :
    Answers (complete (skipIf b) s) (SkipsIf s c) := by
  refine ⟨_, complete_eq _ s, fun hc => ?_, fun hc => ?_, s.setPc_keepsAllBut _⟩
  · rw [State.setPc_pc, applyDirective_skipIf, if_pos (hb.mpr hc)]
  · rw [State.setPc_pc, applyDirective_skipIf, if_neg (mt hb.mp hc)]

/-! ## The obligations -/

/-- Settles O18: the target is nnn extended by zeros, so as a number it is nnn. -/
theorem jumpSetsThePc : Obligations.JumpSetsThePc := by
  intro p nnn s
  refine ⟨decode_jp p nnn, ?_⟩
  obtain ⟨t, ht, hpc, hkeeps⟩ := complete_jumpTo_answers (zextAddr nnn) s
  exact ⟨t, ht, by rw [hpc, zextAddr_toNat], hkeeps⟩

/-- Settles O20: each of the four skips is `skipIf` of the test that decides its comparison. -/
theorem conditionalSkipsCompareRegisters : Obligations.ConditionalSkipsCompareRegisters := by
  intro p x y kk s
  exact ⟨decode_seImm p x kk, decode_sneImm p x kk, decode_seReg p x y, decode_sneReg p x y,
    complete_skipIf_answers beq_iff_eq s, complete_skipIf_answers bne_iff_ne s,
    complete_skipIf_answers beq_iff_eq s, complete_skipIf_answers bne_iff_ne s⟩

end Sys2Proof.Machine

/-! PROOFS of the ALU family (41_alu.md): the register loads, and the sums and differences that write a flag. -/

/-! ## The words of group 8 and of LD Vx, kk -/

namespace Sys2Proof

/-- 6xkk is LD Vx, kk (41_alu.md R151). -/
theorem decode_ldImm (p : SysPolicy) (x : Nibble) (kk : Byte) : decode p (0x6#4 ++ x) kk = .instr (.ldImm x kk) :=
  decode_of_table (by simp [decodeTable]) (by simp) p

/-- 8xyn is the instruction group 8 has for n (30_encoding.md R88). -/
theorem decode_group8 {x y n : Nibble} {i : Instr} (h : decodeGroup8 x y n = some i) (hs : ∀ nnn, i ≠ .sys nnn)
    (p : SysPolicy) : decode p (0x8#4 ++ x) (y ++ n) = .instr i :=
  decode_of_table (by simp [decodeTable, h]) hs p

end Sys2Proof

namespace Sys2Proof.Machine

/-! ## Completing with register writes only -/

/-- A write of the register file and of PC leaves every other piece. -/
theorem State.setRegs_setPc_keepsAllBut (s : State) (v : Vector Byte 16) (a : Word) :
    KeepsAllBut [.v, .pc] s ((s.setRegs v).setPc a) := by
  intro p hp
  cases p
  case v => simp at hp
  case pc => simp at hp
  all_goals simp [Piece.same]

/-- An instruction whose one write is b to V[x] completes and does that and no more. -/
theorem complete_setV_answers (s : State) (x : Nibble) (b : Byte) :
    Answers (complete .advance (s.setV x b)) (SetsReg s x b) := by
  refine ⟨_, complete_eq _ _, by simp, by simp, fun r hr => ?_, s.setRegs_setPc_keepsAllBut _ _⟩
  rw [State.setPc_getV, State.getV_setV_ne s b (by simpa using hr)]

/-- An instruction whose writes are those of WriteRF (41_alu.md R150) completes with the number n of its result and the flag
of the condition c that its flag bit stands for, the one left in VF where x = 15 as VF_ORDER says. -/
theorem complete_writeRF_answers {r : Byte} {f : Bool} {n : Nat} {c : Prop} [Decidable c] (s : State) (x : Nibble)
    (hr : r.toNat = n) (hf : f = true ↔ c) :
    Answers (complete .advance (s.writeRF x r f)) (SetsRegAndFlag s x n (decide c)) := by
  obtain rfl : f = decide c := Bool.eq_iff_iff.mpr (hf.trans decide_eq_true_iff.symm)
  subst hr
  refine ⟨_, complete_eq _ _, fun hx => ?_, fun hx => ?_, ?_, fun k hk => ?_, ?_⟩
  · simp only [State.setPc_getV, State.writeRF_result _ _ _ _ hx, State.writeRF_flag _ _ _ _ hx, flagByte_toNat,
      and_self]
  · subst hx
    rw [State.setPc_getV, State.writeRF_vf]
    cases s.cfg.vfOrder <;> simp
  · rw [State.writeRF_eq_setRegs, State.setPc_pc, applyDirective_advance, State.setRegs_pc]
  · obtain ⟨hkx, hkf⟩ : k ≠ x ∧ k ≠ 15#4 := by simpa using hk
    rw [State.setPc_getV, State.writeRF_getV_of_ne s x r _ k hkx hkf]
  · rw [State.writeRF_eq_setRegs]
    exact s.setRegs_setPc_keepsAllBut _ _

/-! ## Differences as numbers -/

/-- A difference of bytes, taken modulo 256. -/
theorem byte_sub_toNat (a b : Byte) : (a - b).toNat = (256 + a.toNat - b.toNat) % 256 := by
  have := b.isLt
  rw [BitVec.toNat_sub]
  omega

/-! ## The obligations -/

/-- Settles O5: both instructions write one register and advance. -/
theorem loadsWriteOneRegister : Obligations.LoadsWriteOneRegister := by
  intro p x y kk s
  exact ⟨decode_ldImm p x kk, decode_group8 rfl (by simp) p, complete_setV_answers s x kk,
    complete_setV_answers s x (s.getV y)⟩

/-- Settles O8: each of the three writes through WriteRF a result and a flag that are the exact sum's or difference's. -/
theorem addAndSubtractSetVf : Obligations.AddAndSubtractSetVf := by
  intro p x y s a b
  exact ⟨decode_group8 rfl (by simp) p, decode_group8 rfl (by simp) p, decode_group8 rfl (by simp) p,
    complete_writeRF_answers s x (BitVec.toNat_add _ _) (carryOf_eq_true _ _),
    complete_writeRF_answers s x (byte_sub_toNat _ _) (notBorrowOf_eq_true _ _),
    complete_writeRF_answers s x (byte_sub_toNat _ _) (notBorrowOf_eq_true _ _)⟩

end Sys2Proof.Machine

/-! PROOFS of the index and memory family (42_index_memory.md): the two instructions that load I. -/

/-! ## The words of LD I, nnn and of group F -/

namespace Sys2Proof

/-- Annn is LD I, nnn (42_index_memory.md R200). -/
theorem decode_ldI (p : SysPolicy) (nnn : Addr) :
    decode p (0xA#4 ++ nnn.extractLsb' 8 4) (nnn.extractLsb' 0 8) = .instr (.ldI nnn) :=
  decode_of_table (by simp [decodeTable]) (by simp) p

/-- Fxkk is the instruction group F has for kk (30_encoding.md R88). -/
theorem decode_groupF {x : Nibble} {kk : Byte} {i : Instr} (h : decodeGroupF x kk = some i) (hs : ∀ nnn, i ≠ .sys nnn)
    (p : SysPolicy) : decode p (0xF#4 ++ x) kk = .instr i :=
  decode_of_table (by simp [decodeTable, h]) hs p

end Sys2Proof

namespace Sys2Proof.Machine

/-! ## Completing with a write of I only -/

/-- A write of I and of PC leaves every other piece. -/
theorem State.setI_setPc_keepsAllBut (s : State) (a b : Word) : KeepsAllBut [.i, .pc] s ((s.setI a).setPc b) := by
  intro p hp
  cases p
  case i => simp at hp
  case pc => simp at hp
  all_goals simp [Piece.same]

/-- An instruction whose one write is the number n to I completes and does that and no more. -/
theorem complete_setI_answers {a : Word} {n : Nat} (s : State) (ha : a.toNat = n) :
    Answers (complete .advance (s.setI a)) (SetsIndex s n) :=
  ⟨_, complete_eq _ _, ha, rfl, s.setI_setPc_keepsAllBut a _⟩

/-! ## The obligations -/

/-- Settles O12: each of the two writes one number to I, nnn itself or the address of the glyph V[x] names. -/
theorem indexLoadsSetI : Obligations.IndexLoadsSetI := by
  intro p x nnn s
  exact ⟨decode_ldI p nnn, decode_groupF rfl (by simp) p, complete_setI_answers s (zextAddr_toNat nnn),
    complete_setI_answers s (glyphAddr_toNat (s.getV x))⟩

end Sys2Proof.Machine

/-! PROOFS of the display family (43_display.md): the sprite draw. -/

/-! ## The words of DRW -/

namespace Sys2Proof

/-- Dxyn is DRW Vx, Vy, n (43_display.md R233). -/
theorem decode_drw (p : SysPolicy) (x y n : Nibble) : decode p (0xD#4 ++ x) (y ++ n) = .instr (.drw x y n) :=
  decode_of_table (by simp [decodeTable]) (by simp) p

end Sys2Proof

namespace Sys2Proof.Machine

/-! ## The drawn pixels and the collision flag -/

/-- The listed pixels of a sprite are those its set bits cover: listed row r is the byte at (I + r) mod 4096. -/
theorem State.mem_drawnPixels {s : State} {x y n : Nibble} {px : Fin 64} {py : Fin 32} :
    (px, py) ∈ s.drawnPixels x y n ↔ SpriteCovers s x y n px py := by
  simp only [State.drawnPixels, mem_spritePixels, SpriteCovers, State.loadBytes, List.getElem_map, cellsFrom_getElem,
    List.length_map, cellsFrom_length, exists_prop, exists_and_left, Prod.mk.injEq, Fin.ext_iff, wrapX, wrapY,
    Config.displayW, Config.displayH, Nat.zero_add]

/-- A draw inverts the pixels its sprite covers (43_display.md R233). -/
theorem State.pix_blit_of_covered {s : State} {x y n : Nibble} {px : Fin 64} {py : Fin 32}
    (h : SpriteCovers s x y n px py) : pix (blit (s.drawnPixels x y n) s.fb false).1 px py = !pix s.fb px py := by
  simp [pix_blit _ _ _ (s.drawnPixels_nodup x y n), State.mem_drawnPixels, h]

/-- A draw leaves the pixels its sprite does not cover (43_display.md R233). -/
theorem State.pix_blit_of_not_covered {s : State} {x y n : Nibble} {px : Fin 64} {py : Fin 32}
    (h : ¬ SpriteCovers s x y n px py) : pix (blit (s.drawnPixels x y n) s.fb false).1 px py = pix s.fb px py := by
  simp [pix_blit _ _ _ (s.drawnPixels_nodup x y n), State.mem_drawnPixels, h]

/-- The collision flag of a draw: some covered pixel was set (43_display.md R234). -/
theorem State.blit_drawnPixels_hit (s : State) (x y n : Nibble) :
    (blit (s.drawnPixels x y n) s.fb false).2 = true ↔
      ∃ px py, SpriteCovers s x y n px py ∧ pix s.fb px py = true := by
  simp only [blit_hit _ _ _ (s.drawnPixels_nodup x y n), Bool.false_eq_true, false_or, Prod.exists,
    State.mem_drawnPixels]

/-! ## The two ends of a draw -/

theorem exec_drw (x y n : Nibble) (s : State) : exec (.drw x y n) s = execDrw x y n s := rfl

/-- A write of the framebuffer, of a register, of display_changed and of PC leaves every other piece. -/
theorem State.setFb_setV_setDisplayChanged_setPc_keepsAllBut (s : State) (fb : Framebuffer) (r : Nibble) (b : Byte)
    (c : Bool) (a : Word) :
    KeepsAllBut [.v, .fb, .displayChanged, .pc] s ((((s.setFb fb).setV r b).setDisplayChanged c).setPc a) := by
  intro p hp
  cases p
  case v | fb | displayChanged | pc => simp at hp
  all_goals simp [Piece.same]

/-- A screen with every pixel set, V0 zero, and I at the font's first row, 0xF0. -/
def fullScreen : State := State.reset.setFb (Vector.replicate 256 0xFF)

/-- There a draw collides: the premise of the collision clause holds, VF is set and the covered pixels are cleared. -/
theorem fullScreen_collides :
    (SpriteCovers fullScreen 0 0 1 0 0 ∧ pix fullScreen.fb 0 0 = true) ∧
      Answers (exec (.drw 0 0 1) fullScreen) fun t => t.getV 15 = 0x01 ∧ t.fb[0] = 0x0F :=
  ⟨⟨⟨0, 0, by decide⟩, by decide⟩, _, rfl, by decide⟩

/-! ## The obligations -/

/-- Settles O30: the pixels drawn are distinct, so the blit inverts each covered pixel once and its flag is the collision. -/
theorem drawXorsTheCoveredPixels : Obligations.DrawXorsTheCoveredPixels := by
  intro p x y n s
  rw [exec_drw]
  refine ⟨decode_drw p x y n, fun hreach => ?_, fun hreach => ?_⟩
  · have hhit := s.blit_drawnPixels_hit x y n
    rw [execDrw_of_inReach hreach]
    refine ⟨_, complete_eq _ _, fun _ _ => State.pix_blit_of_covered, fun _ _ => State.pix_blit_of_not_covered,
      fun hc => ?_, fun hc => ?_, rfl, rfl, fun r hr => ?_,
      s.setFb_setV_setDisplayChanged_setPc_keepsAllBut _ _ _ _ _⟩
    · simp [hhit.mpr hc, flagByte]
    · simp [Bool.eq_false_iff.mpr (mt hhit.mp hc), flagByte]
    · have hr15 : r ≠ 15#4 := by simpa using hr
      simp [State.getV_setV_ne _ _ hr15]
  · rw [execDrw_of_not_inReach hreach]
    exact raise_takesError _ s

end Sys2Proof.Machine

/-! PROOFS of the timers and keypad family (44_timers_keypad.md): reading and setting DT. -/

namespace Sys2Proof.Machine

/-! ## Completing with a write of DT only -/

/-- A write of DT and of PC leaves every other piece. -/
theorem State.setDt_setPc_keepsAllBut (s : State) (b : Byte) (a : Word) :
    KeepsAllBut [.dt, .pc] s ((s.setDt b).setPc a) := by
  intro p hp
  cases p
  case dt | pc => simp at hp
  all_goals simp [Piece.same]

/-- An instruction whose one write is the byte b to DT completes and does that and no more. -/
theorem complete_setDt_answers (s : State) (b : Byte) :
    Answers (complete .advance (s.setDt b)) fun t => t.dt = b ∧ t.pc = s.pc + 2 ∧ KeepsAllBut [.dt, .pc] s t :=
  ⟨_, complete_eq _ _, rfl, rfl, s.setDt_setPc_keepsAllBut b _⟩

/-! ## The obligations -/

/-- Settles O32: one of the two writes DT to V[x] alone, the other V[x] to DT alone. -/
theorem delayTimerIsReadAndSet : Obligations.DelayTimerIsReadAndSet := by
  intro p x s
  exact ⟨decode_groupF rfl (by simp) p, decode_groupF rfl (by simp) p, complete_setV_answers s x s.dt,
    complete_setDt_answers s (s.getV x)⟩

end Sys2Proof.Machine

/-! PROOFS of the exceptions family (60_exceptions.md): the frame step, the key edge, and that errors are precise. -/

namespace Sys2Proof.Machine

/-! ## The frame step -/

/-- A write of display_changed, of the timers and of sound_active leaves every other piece. -/
theorem State.setDisplayChanged_setDt_setSt_setSoundActive_keepsAllBut (s : State) (c a : Bool) (d b : Byte) :
    KeepsAllBut [.displayChanged, .dt, .st, .soundActive] s
      ((((s.setDisplayChanged c).setDt d).setSt b).setSoundActive a) := by
  intro p hp
  cases p
  case displayChanged | dt | st | soundActive => simp at hp
  all_goals simp [Piece.same]

/-- Settles O36: with no error latched the frame step is four writes, and ST > 0 after its count is ST > 1 before it. -/
theorem frameStepCountsTheTimersDown : Obligations.FrameStepCountsTheTimersDown := by
  refine fun s => ⟨fun hf => ?_, fun hf => ?_⟩
  · refine ⟨_, congrArg Host.Outcome.next (frameStep_of_running hf), rfl, countDown_toNat _, countDown_toNat _, ?_,
      s.setDisplayChanged_setDt_setSt_setSoundActive_keepsAllBut _ _ _ _⟩
    simp only [State.setSoundActive_soundActive, State.setSoundActive_st, State.setSt_st, countDown_toNat]
    exact decide_eq_decide.mpr (by omega)
  · exact congrArg Host.Outcome.next (frameStep_of_fault (Option.isSome_iff_ne_none.mpr hf))

/-! ## The key edge -/

/-- A write of a register and of wait_active leaves every other piece. -/
theorem State.setV_setWaitActive_keepsAllBut (s : State) (r : Nibble) (b : Byte) (c : Bool) :
    KeepsAllBut [.v, .waitActive] s ((s.setV r b).setWaitActive c) := by
  intro p hp
  cases p
  case v | waitActive => simp at hp
  all_goals simp [Piece.same]

/-- A pending wait takes the lowest key k of the mask, in the register it was begun for. -/
theorem keyEdge_answers {edge : Word} {s : State} {k : Nat} (hf : s.fault = none) (hw : s.waitActive = true)
    (hk : lowestKey edge = some k) :
    Answers (runOp (.keyEdge edge) s) fun t =>
      (t.getV s.waitReg).toNat = k ∧ t.waitActive = false ∧ KeepsRegsBut [s.waitReg] s t ∧
        KeepsAllBut [.v, .waitActive] s t := by
  obtain ⟨hk16, -⟩ := lowestKey_eq_some.mp hk
  refine ⟨_, congrArg Host.Outcome.next (keyEdge_of_waiting hf hw hk), ?_, rfl, fun r hr => ?_,
    s.setV_setWaitActive_keepsAllBut _ _ _⟩
  · rw [State.setWaitActive_getV, State.getV_setV_self, BitVec.toNat_ofNat]
    omega
  · rw [State.setWaitActive_getV, State.getV_setV_ne s _ (by simpa using hr)]

/-- Settles O38: a nonzero mask has a lowest key, which the wait takes; each other case is a no-op of its own. -/
theorem keyEdgeResolvesTheWait : Obligations.KeyEdgeResolvesTheWait := by
  refine fun edge s => ⟨fun hf hw hedge => ?_, ?_⟩
  · obtain ⟨k, hk⟩ := Option.ne_none_iff_exists'.mp (mt lowestKey_eq_none.mp hedge)
    obtain ⟨hk16, hset, hlow⟩ := lowestKey_eq_some.mp hk
    obtain ⟨t, ht, hv, hrest⟩ := keyEdge_answers hf hw hk
    exact ⟨t, ht, ⟨k, hk16, hset, hlow, hv⟩, hrest⟩
  · rintro (hf | hw | rfl)
    · exact congrArg Host.Outcome.next (keyEdge_of_fault (Option.isSome_iff_ne_none.mpr hf))
    · exact congrArg Host.Outcome.next (keyEdge_of_idle hw)
    · exact congrArg Host.Outcome.next (keyEdge_zero s)

/-! ## What becomes of the fault latch -/

/-- With SP above 16, RET and CALL have no next state (log 7). -/
theorem exec_of_illegal_sp {i : Instr} {s : State} (hsp : 16 < s.sp.toNat) (hi : i = .ret ∨ ∃ nnn, i = .call nnn) :
    exec i s = .fault .illegalStackPointer := by
  rcases hi with rfl | ⟨nnn, rfl⟩
  · rcases execRet_cases s with ⟨h0, -⟩ | ⟨-, hl, -⟩ | ⟨-, he⟩
    · simp [h0] at hsp
    · bv_omega
    · exact he
  · rcases execCall_cases nnn s with ⟨h16, -⟩ | ⟨hlt, -⟩ | ⟨-, he⟩
    · omega
    · omega
    · exact he

/-- From any state, an instruction that has a next state raises an error there, writing the latch alone, or keeps the latch
(60_exceptions.md R309, R310). -/
theorem exec_next_fault {i : Instr} {s t : State} (ht : exec i s = .next t) :
    (∃ e, t = s.setFault (some e)) ∨ t.fault = s.fault := by
  by_cases hi : s.sp.toNat ≤ 16 ∨ (i ≠ .ret ∧ ∀ nnn, i ≠ .call nnn)
  · rcases exec_cases i s hi with ⟨e, -, hx⟩ | ⟨d, u, hx, hu, -⟩
    · rw [ht, raise_eq] at hx
      exact .inl ⟨e, Host.Outcome.next.inj hx⟩
    · rw [ht, complete_eq] at hx
      exact .inr (by rw [Host.Outcome.next.inj hx, State.setPc_fault, hu.fault])
  · rw [not_or, not_le, not_and_or, not_not, not_forall_not] at hi
    obtain ⟨hsp, hstack⟩ := hi
    rw [exec_of_illegal_sp hsp hstack] at ht
    cases ht

/-- A TICK keeps the latch, or it found none latched and writes the latch alone (60_exceptions.md R308, R312). -/
theorem tick_next_fault {s t : State} (ht : tick s = .next t) :
    t.fault = s.fault ∨ s.fault = none ∧ ∃ e, t = s.setFault (some e) := by
  rcases tick_cases s with ⟨-, h⟩ | ⟨-, -, h⟩ | ⟨hf, -, -, h⟩ | ⟨hf, -, -, -, h⟩ | ⟨hf, -, -, i, -, h⟩ <;> rw [ht] at h
  · cases h
    exact .inl rfl
  · cases h
    exact .inl rfl
  · exact .inr ⟨hf, _, Host.Outcome.next.inj h⟩
  · exact .inr ⟨hf, _, Host.Outcome.next.inj h⟩
  · exact (exec_next_fault h.symm).symm.imp_right fun he => ⟨hf, he⟩

/-- A LOAD clears the latch, keeps it, or writes it alone, with none latched or where failedLoad has the error replaced
(70_reset_and_hazards.md R353, 60_exceptions.md R313; log 17). -/
theorem loadImage_fault (p : List Byte) (s : State) :
    (loadImage p s).fault = none ∨ (loadImage p s).fault = s.fault ∨
      (s.fault = none ∨ s.cfg.failedLoad = .replacesError) ∧ ∃ e, loadImage p s = s.setFault (some e) := by
  rcases loadImage_cases p s with ⟨-, h⟩ | ⟨-, hf, h⟩ | ⟨-, -, -, h⟩
  · exact .inl (by rw [h, State.storeImage_eq_setMem]; rfl)
  · exact .inr (.inr ⟨hf, _, h⟩)
  · exact .inr (.inl (by rw [h]))

/-- What any host operation does to the latch: it leaves no new error, or it is a TICK or a LOAD that writes the latch and,
for the TICK, its keys input, and nothing else (60_exceptions.md R310). -/
theorem runOp_next_fault {op : HostOp} {s t : State} (ht : runOp op s = .next t) :
    t.fault = none ∨ t.fault = s.fault ∨
      (∃ keys, op = .tick keys ∧ s.fault = none ∧ ∃ e, t = (s.withKeys keys).setFault (some e)) ∨
      ∃ p, op = .load p ∧ (s.fault = none ∨ s.cfg.failedLoad = .replacesError) ∧ ∃ e, t = s.setFault (some e) := by
  cases op with
  | tick keys =>
    rcases tick_next_fault ht with h | ⟨hf, he⟩
    · exact .inr (.inl h)
    · exact .inr (.inr (.inl ⟨keys, rfl, hf, he⟩))
  | frame =>
    cases ht
    exact .inr (.inl (frameStep_spares .cls s).fault)
  | keyEdge edge =>
    cases ht
    exact .inr (.inl (keyEdge_spares .cls edge s).fault)
  | keyPoll keys =>
    cases ht
    exact .inr (.inl (keyPoll_spares .cls keys s).fault)
  | load p =>
    cases ht
    exact (loadImage_fault p s).imp_right (Or.imp_right fun h => .inr ⟨p, rfl, h⟩)
  | reset =>
    cases ht
    exact .inl rfl
  | drive a b =>
    cases ht
    exact .inr (.inl rfl)

/-- Settles O44: a latch that holds a new error was written by one of the two operations that write it alone. -/
theorem errorsArePrecise : Obligations.ErrorsArePrecise := by
  intro op s t ht hsome hnew
  rcases runOp_next_fault ht with h | h | ⟨keys, rfl, hf, e, rfl⟩ | ⟨p, rfl, hf, e, rfl⟩
  · exact absurd h hsome
  · exact absurd h hnew
  · exact ⟨.inl hf, .inl ⟨keys, rfl, rfl⟩⟩
  · exact ⟨hf.imp_right fun hc => ⟨hc, p, rfl⟩, .inr ⟨p, rfl, rfl⟩⟩

end Sys2Proof.Machine

/-! PROOFS of the round trip of the encoder and the decoder (30_encoding.md). -/

namespace Sys2Proof

/-! ## Bytes and addresses put together from their fields -/

@[simp] theorem fieldOp_append_fieldX (b1 : Byte) : (fieldOp b1 ++ fieldX b1 : Byte) = b1 := hiNibble_append_loNibble b1

@[simp] theorem fieldY_append_fieldN (b2 : Byte) : (fieldY b2 ++ fieldN b2 : Byte) = b2 := hiNibble_append_loNibble b2

/-- An address field determines its nibble and its byte. -/
theorem addr_append_inj {x y : Nibble} {a b : Byte} (h : (x ++ a : Addr) = y ++ b) : x = y ∧ a = b :=
  ⟨by rw [← addr_high x a, h, addr_high], by rw [← addr_low x a, h, addr_low]⟩

theorem sysFieldOk_iff {nnn : Addr} : sysFieldOk nnn = true ↔ nnn ≠ 0x0E0#12 ∧ nnn ≠ 0x0EE#12 := by
  simp [sysFieldOk]

/-! ## Decoding what was encoded -/

/-- A SYS word that is neither CLS nor RET is read as SYS (30_encoding.md R88, R92). -/
theorem decodeGroup0_sys {nnn : Addr} (h : sysFieldOk nnn = true) :
    decodeGroup0 (0x0#4 ++ nnn.extractLsb' 8 4) (nnn.extractLsb' 0 8) = .sys nnn := by
  obtain ⟨hcls, hret⟩ := sysFieldOk_iff.mp h
  have hfield := fieldNnn_append 0x0#4 nnn
  unfold decodeGroup0
  rw [if_neg, if_neg, hfield]
  · rintro ⟨h1, h2⟩
    rw [h1, h2] at hfield
    exact hret (hfield.symm.trans (by decide))
  · rintro ⟨h1, h2⟩
    rw [h1, h2] at hfield
    exact hcls (hfield.symm.trans (by decide))

/-- The table finds the row whose pattern the encoder filled in (30_encoding.md R88, R90). -/
theorem decodeTable_encode {i : Instr} (h : i.wf = true) : decodeTable (encode i).1 (encode i).2 = some i := by
  cases i
  case sys nnn => simpa [decodeTable, encode, encodeNnn] using decodeGroup0_sys h
  case cls | ret => rfl
  all_goals simp [decodeTable, encode, encodeNnn, encodeXkk, encodeXyn, decodeGroup8, decodeGroupE, decodeGroupF]

/-- Settles O1: the table reads the encoding back, and SYS_POLICY takes nothing away but SYS. -/
theorem decodeOfEncodeIsIdentity : Obligations.DecodeOfEncodeIsIdentity := by
  intro p i hwf hp
  have ht := decodeTable_encode hwf
  by_cases hs : ∀ nnn, i ≠ .sys nnn
  · exact decode_of_table ht hs p
  · obtain ⟨nnn, rfl⟩ := not_forall_not.mp hs
    obtain rfl : p = .nop := hp.resolve_right hs
    exact decode_of_sys ht .nop

/-! ## Encoding what was decoded -/

/-- A decoded instruction is the one its row of the table holds. -/
theorem decodeTable_of_decode {p : SysPolicy} {b1 b2 : Byte} {i : Instr} (h : decode p b1 b2 = .instr i) :
    decodeTable b1 b2 = some i := by
  cases ht : decodeTable b1 b2 with
  | none => rw [decode_of_none ht] at h; cases h
  | some j =>
    by_cases hs : ∀ nnn, j ≠ .sys nnn
    · rw [decode_of_table ht hs] at h
      exact congrArg some (Decoded.instr.inj h)
    · obtain ⟨nnn, rfl⟩ := not_forall_not.mp hs
      rw [decode_of_sys ht] at h
      split at h
      · exact congrArg some (Decoded.instr.inj h)
      · cases h

theorem decodeGroup8_encode {x y n : Nibble} {i : Instr} (h : decodeGroup8 x y n = some i) :
    i.wf = true ∧ encode i = encodeXyn 0x8#4 x y n := by
  unfold decodeGroup8 at h
  split at h <;> cases h <;> exact ⟨rfl, rfl⟩

theorem decodeGroupE_encode {x : Nibble} {kk : Byte} {i : Instr} (h : decodeGroupE x kk = some i) :
    i.wf = true ∧ encode i = encodeXkk 0xE#4 x kk := by
  unfold decodeGroupE at h
  split at h <;> cases h <;> exact ⟨rfl, rfl⟩

theorem decodeGroupF_encode {x : Nibble} {kk : Byte} {i : Instr} (h : decodeGroupF x kk = some i) :
    i.wf = true ∧ encode i = encodeXkk 0xF#4 x kk := by
  unfold decodeGroupF at h
  split at h <;> cases h <;> exact ⟨rfl, rfl⟩

theorem decodeGroup0_encode (x : Nibble) (b2 : Byte) :
    (decodeGroup0 (0x0#4 ++ x) b2).wf = true ∧ encode (decodeGroup0 (0x0#4 ++ x) b2) = (0x0#4 ++ x, b2) := by
  unfold decodeGroup0
  split
  · next h => exact ⟨rfl, by rw [h.1, h.2]; rfl⟩
  · next hcls =>
    split
    · next h => exact ⟨rfl, by rw [h.1, h.2]; rfl⟩
    · next hret =>
      refine ⟨sysFieldOk_iff.mpr ⟨fun h => hcls ?_, fun h => hret ?_⟩, by simp [encode, encodeNnn, fieldNnn]⟩
      · rw [fieldNnn, fieldX_append] at h
        obtain ⟨rfl, rfl⟩ := addr_append_inj (y := 0x0#4) (b := 0xE0#8) h
        decide
      · rw [fieldNnn, fieldX_append] at h
        obtain ⟨rfl, rfl⟩ := addr_append_inj (y := 0x0#4) (b := 0xEE#8) h
        decide

/-- Every bit of a word of the table is one of its row's pattern or of its instruction's operands (30_encoding.md R90,
R93). -/
theorem encode_of_decodeTable {b1 b2 : Byte} {i : Instr} (h : decodeTable b1 b2 = some i) :
    i.wf = true ∧ encode i = (b1, b2) := by
  obtain ⟨op, x, rfl⟩ : ∃ op x : Nibble, b1 = op ++ x := ⟨_, _, (fieldOp_append_fieldX b1).symm⟩
  unfold decodeTable at h
  rw [fieldOp_append, fieldX_append] at h
  split at h
  case h_1 => cases h; exact decodeGroup0_encode x b2
  case h_6 | h_10 =>
    obtain ⟨hn, hi⟩ := Option.ite_none_right_eq_some.mp h
    cases hi
    exact ⟨rfl, by simp [encode, encodeXyn, ← hn]⟩
  case h_9 => simpa [encodeXyn] using decodeGroup8_encode h
  case h_15 => exact decodeGroupE_encode h
  case h_16 =>
    obtain rfl : op = 0xF#4 := by
      simp_all only [imp_false, ← BitVec.toNat_inj, BitVec.toNat_ofNat]
      omega
    exact decodeGroupF_encode h
  all_goals
    cases h
    exact ⟨rfl, by simp [encode, encodeNnn, encodeXkk, encodeXyn, fieldNnn]⟩

/-- Settles O2: a decoded word is a word of the table. -/
theorem decodedWordsEncodeBack : Obligations.DecodedWordsEncodeBack :=
  fun _ _ _ _ h => encode_of_decodeTable (decodeTable_of_decode h)

/-- Settles O4: ten words read by the table. -/
theorem sampleWordsDecode : Obligations.SampleWordsDecode := by
  intro p
  refine ⟨?_, ?_, ?_, ?_, ?_, ?_, ?_, ?_, ?_, ?_⟩ <;> exact decode_of_table (by decide) (by simp) p

end Sys2Proof

namespace Sys2Proof.Machine

/-- SYS completes under SYS_POLICY = nop, with no write but that of PC (40_control_flow.md R111). -/
theorem exec_sys_of_nop {s : State} (h : s.cfg.sysPolicy = .nop) (nnn : Addr) : exec (.sys nnn) s = complete .advance s := by
  simp only [exec, execSys, h]

/-- Settles O27: the words are those the encoder gives SYS, and the policy decides at decode. -/
theorem sysExecutesOnlyUnderNop : Obligations.SysExecutesOnlyUnderNop := by
  rintro _ _ nnn s rfl rfl hcls hret
  have ht := decodeTable_encode (i := .sys nnn) (sysFieldOk_iff.mpr ⟨hcls, hret⟩)
  exact ⟨decode_of_sys ht .nop, decode_of_sys ht .fault, fun hp =>
    ⟨_, exec_sys_of_nop hp nnn, rfl, s.setPc_keepsAllBut _⟩⟩

end Sys2Proof.Machine

/-! PROOFS of what every step keeps (10_state.md, 60_exceptions.md): the parameters, the schedule and the invariant. -/

namespace Sys2Proof.Machine

/-! ## All that a next state can be -/

/-- All that an instruction's next state can be, whatever SP holds: error entry, or its directive applied to a state that
kept PC. -/
theorem exec_next {i : Instr} {s t : State} (ht : exec i s = .next t) :
    (∃ e, MayRaise i s e ∧ t = s.setFault (some e)) ∨
      ∃ d u, MayDirect i s d ∧ Spares i s u ∧ t = u.setPc (applyDirective d s.pc) := by
  have hi : s.sp.toNat ≤ 16 ∨ (i ≠ .ret ∧ ∀ nnn, i ≠ .call nnn) := by
    by_contra hbad
    rw [not_or, not_le, not_and_or, not_not, not_forall_not] at hbad
    obtain ⟨hsp, hstack⟩ := hbad
    rw [exec_of_illegal_sp hsp hstack] at ht
    cases ht
  rcases exec_cases i s hi with ⟨e, he, hx⟩ | ⟨d, u, hx, hu, hd⟩
  · rw [ht, raise_eq] at hx
    exact .inl ⟨e, he, Host.Outcome.next.inj hx⟩
  · rw [ht, complete_eq, hu.pc] at hx
    exact .inr ⟨d, u, hd, hu, Host.Outcome.next.inj hx⟩

/-- All that a TICK's next state can be: the state itself, error entry, or a completed instruction at a PC in range. -/
theorem tick_next {s t : State} (ht : tick s = .next t) :
    t = s ∨ (∃ e, t = s.setFault (some e)) ∨
      ∃ i d u, s.pc.toNat ≤ 0xFFE ∧ MayDirect i s d ∧ Spares i s u ∧ t = u.setPc (applyDirective d s.pc) := by
  rcases tick_cases s with ⟨-, h⟩ | ⟨-, -, h⟩ | ⟨-, -, -, h⟩ | ⟨-, -, -, -, h⟩ | ⟨-, -, hp, i, -, h⟩ <;>
    rw [ht] at h
  · exact .inl (Host.Outcome.next.inj h)
  · exact .inl (Host.Outcome.next.inj h)
  · exact .inr (.inl ⟨_, Host.Outcome.next.inj h⟩)
  · exact .inr (.inl ⟨_, Host.Outcome.next.inj h⟩)
  · rcases exec_next h.symm with ⟨e, -, ht⟩ | ⟨d, u, hd, hu, ht⟩
    · exact .inr (.inl ⟨e, ht⟩)
    · exact .inr (.inr ⟨i, d, u, hp, hd, hu, ht⟩)

/-! ## The parameters and the schedule -/

theorem tick_next_cfg_ops {s t : State} (ht : tick s = .next t) : t.cfg = s.cfg ∧ t.env.ops = s.env.ops := by
  rcases tick_next ht with rfl | ⟨e, rfl⟩ | ⟨i, d, u, -, -, hu, rfl⟩
  · exact ⟨rfl, rfl⟩
  · exact ⟨rfl, rfl⟩
  · exact ⟨hu.cfg, hu.ops⟩

theorem loadImage_cfg_env (p : List Byte) (s : State) :
    (loadImage p s).cfg = s.cfg ∧ (loadImage p s).env = s.env := by
  rcases loadImage_cases p s with ⟨-, h⟩ | ⟨-, -, h⟩ | ⟨-, -, -, h⟩ <;> rw [h]
  · rw [State.storeImage_eq_setMem]
    exact ⟨rfl, rfl⟩
  · exact ⟨rfl, rfl⟩
  · exact ⟨rfl, rfl⟩

/-- No host operation changes a parameter (00_scope.md R10) or, but for the step that takes it, the schedule (log 2). -/
theorem runOp_next_cfg_ops {op : HostOp} {s t : State} (ht : runOp op s = .next t) :
    t.cfg = s.cfg ∧ t.env.ops = s.env.ops := by
  cases op with
  | tick keys => exact tick_next_cfg_ops (s := s.withKeys keys) ht
  | frame =>
    cases ht
    exact ⟨(frameStep_spares .cls s).cfg, (frameStep_spares .cls s).ops⟩
  | keyEdge edge =>
    cases ht
    exact ⟨(keyEdge_spares .cls edge s).cfg, (keyEdge_spares .cls edge s).ops⟩
  | keyPoll keys =>
    cases ht
    exact ⟨(keyPoll_spares .cls keys s).cfg, (keyPoll_spares .cls keys s).ops⟩
  | load p =>
    cases ht
    obtain ⟨hcfg, henv⟩ := loadImage_cfg_env p s
    exact ⟨hcfg, congrArg Env.ops henv⟩
  | reset | drive =>
    cases ht
    exact ⟨rfl, rfl⟩

/-- Settles O52: a step is a TICK or a host operation, and neither writes a parameter. -/
theorem parametersNeverChange : Obligations.ParametersNeverChange := by
  intro s t ht
  cases hops : s.env.ops with
  | nil => exact (tick_next_cfg_ops ((step_of_no_ops hops).symm.trans ht)).1
  | cons op ops => exact (runOp_next_cfg_ops ((step_of_op hops).symm.trans ht)).1

/-! ## The invariant -/

/-- A write of PC keeps the invariant where its bound is met. -/
theorem State.Inv.setPc {s : State} (hs : s.Inv) {a : Word} (ha : a.toNat ≤ 0x10FE) : (s.setPc a).Inv :=
  ⟨hs.memOk, hs.spLegal, ha, hs.stackBounded⟩

theorem State.Inv.setFault {s : State} (hs : s.Inv) (e : Option MachineError) : (s.setFault e).Inv :=
  ⟨hs.memOk, hs.spLegal, hs.pcBounded, hs.stackBounded⟩

theorem State.Inv.setEnv {s : State} (hs : s.Inv) (e : Env) : (s.setEnv e).Inv :=
  ⟨hs.memOk, hs.spLegal, hs.pcBounded, hs.stackBounded⟩

/-- What a completing instruction spares keeps the invariant: the one stack entry it may write, PC + 2, is at most 0x1000
from a PC that was fetched at (40_control_flow.md R113). -/
theorem Spares.inv {i : Instr} {s u : State} (hu : Spares i s u) (hs : s.Inv)
    (hi : s.pc.toNat ≤ 0xFFE ∨ ∀ nnn, i ≠ .call nnn) : u.Inv := by
  refine ⟨hu.memOk hs.memOk, hu.sp hs.spLegal, hu.pc ▸ hs.pcBounded, fun k hk => ?_⟩
  rcases hu.stack with h | ⟨nnn, hcall, h⟩
  · simpa [h] using hs.stackBounded k hk
  · have hp : s.pc.toNat ≤ 0xFFE := hi.resolve_right fun hne => hne nnn hcall
    obtain ⟨h2, -⟩ := fetched_pc_add_toNat hp
    simp only [h, Vector.getElem_setIfInBounds]
    split
    · omega
    · exact hs.stackBounded k hk

theorem tick_keeps_inv {s t : State} (hs : s.Inv) (ht : tick s = .next t) : t.Inv := by
  rcases tick_next ht with rfl | ⟨e, rfl⟩ | ⟨i, d, u, hp, hd, hu, rfl⟩
  · exact hs
  · exact hs.setFault _
  · exact (hu.inv hs (.inl hp)).setPc (applyDirective_le hs hp hd)

/-- With no cell listed memory is canonical, whatever FONT is. -/
theorem resetBlock_memOk (s : State) : (resetBlock s).memOk := ⟨.nil, by simp [resetBlock, State.reset]⟩

/-- The reset state meets the invariant under every setting of the parameters (70_reset_and_hazards.md R350). -/
theorem resetBlock_inv (s : State) : (resetBlock s).Inv :=
  ⟨resetBlock_memOk s, by simp [resetBlock, State.reset], by simp [resetBlock, State.reset],
    by simp [resetBlock, State.reset]⟩

/-- The bytes of LOAD lie in memory, so storing them keeps its canonical form (70_reset_and_hazards.md R353). -/
theorem loadImage_keeps_inv {s : State} (hs : s.Inv) (p : List Byte) : (loadImage p s).Inv := by
  rcases loadImage_cases p s with ⟨hl, h⟩ | ⟨-, -, h⟩ | ⟨-, -, -, h⟩ <;> rw [h]
  · have hmem := (resetBlock s).storeImage_memOk 0x200 p (by omega) (resetBlock_memOk s)
    rw [State.storeImage_eq_setMem] at hmem ⊢
    obtain ⟨-, hsp, hpc, hstack⟩ := resetBlock_inv s
    exact ⟨hmem, hsp, hpc, hstack⟩
  · exact hs.setFault _
  · exact hs

theorem runOp_keeps_inv {op : HostOp} {s t : State} (hs : s.Inv) (ht : runOp op s = .next t) : t.Inv := by
  cases op with
  | tick keys => exact tick_keeps_inv (hs.setEnv _) ht
  | frame =>
    cases ht
    exact (frameStep_spares .cls s).inv hs (.inr (by simp))
  | keyEdge edge =>
    cases ht
    exact (keyEdge_spares .cls edge s).inv hs (.inr (by simp))
  | keyPoll keys =>
    cases ht
    exact (keyPoll_spares .cls keys s).inv hs (.inr (by simp))
  | load p =>
    cases ht
    exact loadImage_keeps_inv hs p
  | reset =>
    cases ht
    exact resetBlock_inv s
  | drive =>
    cases ht
    exact hs.setEnv _

/-- Settles O47: the reset state is what RESET leaves of itself. -/
theorem resetStateMeetsInvariant : Obligations.ResetStateMeetsInvariant := resetBlock_inv State.reset

/-- Settles O48: a TICK and every other host operation keep the invariant, and moving the schedule on touches nothing of
it. -/
theorem stepKeepsInvariant : Obligations.StepKeepsInvariant := by
  intro s t hs ht
  cases hops : s.env.ops with
  | nil => exact tick_keeps_inv hs ((step_of_no_ops hops).symm.trans ht)
  | cons op ops => exact runOp_keeps_inv (hs.setEnv _) ((step_of_op hops).symm.trans ht)

/-! ## Every step answers a next state -/

theorem exec_answers_of_legal_sp (i : Instr) {s : State} (h : s.sp.toNat ≤ 16) : ∃ t, exec i s = .next t := by
  rcases exec_cases i s (.inl h) with ⟨e, -, hx⟩ | ⟨d, u, hx, -⟩
  · exact ⟨_, hx⟩
  · exact ⟨_, hx⟩

theorem tick_answers_of_legal_sp {s : State} (h : s.sp.toNat ≤ 16) : ∃ t, tick s = .next t := by
  rcases tick_cases s with ⟨-, ht⟩ | ⟨-, -, ht⟩ | ⟨-, -, -, ht⟩ | ⟨-, -, -, -, ht⟩ | ⟨-, -, -, i, -, ht⟩
  · exact ⟨_, ht⟩
  · exact ⟨_, ht⟩
  · exact ⟨_, ht⟩
  · exact ⟨_, ht⟩
  · exact ht ▸ exec_answers_of_legal_sp i h

theorem runOp_answers_of_legal_sp (op : HostOp) {s : State} (h : s.sp.toNat ≤ 16) : ∃ t, runOp op s = .next t := by
  cases op with
  | tick keys => exact tick_answers_of_legal_sp (s := s.withKeys keys) h
  | frame | keyEdge | keyPoll | load | reset | drive => exact ⟨_, rfl⟩

/-- Settles O49: only an SP above 16 could stop a step, and the invariant has none. -/
theorem stepNeverStops : Obligations.StepNeverStops := by
  intro s hs
  cases hops : s.env.ops with
  | nil => exact step_of_no_ops hops ▸ tick_answers_of_legal_sp hs.spLegal
  | cons op ops => exact step_of_op hops ▸ runOp_answers_of_legal_sp op (s := s.withOps ops) hs.spLegal

/-! ## Safe runs -/

/-- A TICK that leaves no error latched found none: an error stays (60_exceptions.md R312). -/
theorem running_of_tick_next {s t : State} (ht : tick s = .next t) (hr : t.running) : s.running := by
  rcases tick_next_fault ht with h | ⟨hf, -⟩
  · exact h.symm.trans hr
  · exact hf

theorem running_of_safeFor {n : Nat} {s : State} (h : safeFor n s) : s.running := by
  cases n with
  | zero => exact h
  | succ n => exact h.1

theorem run_succ_of_step {M : Host.Core} {n : Nat} {s t : M.State} (h : M.step s = .next t) :
    M.run (n + 1) s = M.run n t := by
  rw [Host.Core.run, h]

/-- A run that ends in a next state begins with a step that answers one. -/
theorem step_of_run_succ {M : Host.Core} {n : Nat} {s t : M.State} (h : M.run (n + 1) s = .next t) :
    ∃ u, M.step s = .next u ∧ M.run n u = .next t := by
  rw [Host.Core.run] at h
  split at h
  · next u hu => exact ⟨u, hu, h⟩
  · cases h
  · cases h

/-- Settles O51: by induction on the number of TICKs, the schedule staying empty and an error staying latched. -/
theorem runIsSafeWhenItsEndIs : Obligations.RunIsSafeWhenItsEndIs := by
  intro n
  induction n with
  | zero =>
    intro s _
    exact ⟨fun h => ⟨s, rfl, h⟩, fun ⟨t, ht, hr⟩ => Host.Outcome.next.inj ht ▸ hr⟩
  | succ n ih =>
    intro s hops
    have htick := step_of_no_ops hops
    constructor
    · rintro ⟨-, u, hu, hsafe⟩
      have hops' := (tick_next_cfg_ops (htick.symm.trans hu)).2.trans hops
      obtain ⟨t, ht, hr⟩ := (ih u hops').mp hsafe
      exact ⟨t, (run_succ_of_step (M := Sys2Proof.core) hu).trans ht, hr⟩
    · rintro ⟨t, ht, hr⟩
      obtain ⟨u, hu, hrun⟩ := step_of_run_succ (M := Sys2Proof.core) ht
      have hops' := (tick_next_cfg_ops (htick.symm.trans hu)).2.trans hops
      have hsafe := (ih u hops').mpr ⟨t, hrun, hr⟩
      exact ⟨running_of_tick_next (htick.symm.trans hu) (running_of_safeFor hsafe), u, hu, hsafe⟩

end Sys2Proof.Machine

/-! PROOFS of which state reaches which instruction (60_exceptions.md R323, 10_state.md R31 to R41, 42_index_memory.md R206):
a change of the state that passes by all that an instruction reads and writes passes by the instruction. -/

namespace Sys2Proof.Machine

/-! ## Parts of the state and the changes that pass them by -/

/-- The parts of the state an instruction can use. The inner part is what all of them share; each other part is used by the
instructions `uses` lists it for. -/
inductive Part where
  | inner
  | keys
  | shiftQuirk
  | indexQuirk
  | source
  | dt
  | st
  | screen
  | waitLatch

/-- s with one part taken from u. -/
def Part.copy (p : Part) (u s : State) : State :=
  match p with
  | .inner =>
    { s with v := u.v, pc := u.pc, i := u.i, stack := u.stack, sp := u.sp, mem := u.mem, fault := u.fault, cfg := u.cfg }
  | .keys => s.withKeys u.env.keys
  | .shiftQuirk => s.withShiftQuirk u.env.shiftReadsVy
  | .indexQuirk => s.withIndexQuirk u.env.indexIncrements
  | .source => s.setEnv { s.env with rands := u.env.rands, draws := u.env.draws }
  | .dt => s.setDt u.dt
  | .st => s.setSt u.st
  | .screen => (s.setFb u.fb).setDisplayChanged u.displayChanged
  | .waitLatch => (s.setWaitActive u.waitActive).setWaitReg u.waitReg

/-- A change f of the state passes a part by: it neither reads nor writes it. -/
def Passes (f : State → State) (p : Part) : Prop := ∀ u s, p.copy u (f s) = f (p.copy u s)

/-- The parts instruction i reads or writes. -/
def uses (i : Instr) : List Part :=
  match i with
  | .skp _ | .sknp _ => [.inner, .keys]
  | .shr _ _ | .shl _ _ => [.inner, .shiftQuirk]
  | .ldMemVx _ | .ldVxMem _ => [.inner, .indexQuirk]
  | .rnd _ _ => [.inner, .source]
  | .cls | .drw _ _ _ => [.inner, .screen]
  | .ldVxDt _ | .ldDtVx _ => [.inner, .dt]
  | .ldStVx _ => [.inner, .st]
  | .ldVxK _ => [.inner, .waitLatch]
  | .sys _ | .ret | .jp _ | .call _ | .seImm _ _ | .sneImm _ _ | .seReg _ _ | .sneReg _ _ | .ldImm _ _ | .addImm _ _
  | .ldReg _ _ | .orReg _ _ | .andReg _ _ | .xorReg _ _ | .addReg _ _ | .subReg _ _ | .subnReg _ _ | .ldI _ | .jpV0 _
  | .addIVx _ | .ldFVx _ | .ldBVx _ => [.inner]

theorem inner_mem_uses (i : Instr) : .inner ∈ uses i := by
  cases i <;> exact List.mem_cons_self

/-- One draw, in one form for both sources: the known bytes lose their first, the free one counts when none is known. -/
theorem Env.afterDraw_eq (e : Env) :
    e.afterDraw = { e with rands := e.rands.tail, draws := if e.rands = [] then e.draws + 1 else e.draws } := by
  rcases e.draw_cases with ⟨b, bs, hr, -, hd⟩ | ⟨hr, -, hd⟩ <;> simp [hr, hd]

namespace Passes

variable {f : State → State}

/-- A part passed by is the same before and after the change. -/
theorem eq_copy {p : Part} (h : Passes f p) (s : State) : f s = p.copy s (f s) := by
  rw [h s s]
  cases p <;> rfl

/-- What a part says of the state is the same before and after the change. -/
theorem read {α : Type} {p : Part} (h : Passes f p) (s : State) (π : State → α) (hp : π (p.copy s (f s)) = π s) :
    π (f s) = π s :=
  (congrArg π (h.eq_copy s)).trans hp

/-! What a change that passes the inner part by leaves to read. -/

theorem v (h : Passes f .inner) (s : State) : (f s).v = s.v := h.read s State.v rfl

theorem pc (h : Passes f .inner) (s : State) : (f s).pc = s.pc := h.read s State.pc rfl

theorem i (h : Passes f .inner) (s : State) : (f s).i = s.i := h.read s State.i rfl

theorem stack (h : Passes f .inner) (s : State) : (f s).stack = s.stack := h.read s State.stack rfl

theorem sp (h : Passes f .inner) (s : State) : (f s).sp = s.sp := h.read s State.sp rfl

theorem mem (h : Passes f .inner) (s : State) : (f s).mem = s.mem := h.read s State.mem rfl

theorem fault (h : Passes f .inner) (s : State) : (f s).fault = s.fault := h.read s State.fault rfl

theorem cfg (h : Passes f .inner) (s : State) : (f s).cfg = s.cfg := h.read s State.cfg rfl

theorem getV (h : Passes f .inner) (s : State) (r : Nibble) : (f s).getV r = s.getV r := by
  simp only [State.getV, h.v]

theorem readByte (h : Passes f .inner) (s : State) (a : Nat) : (f s).readByte a = s.readByte a := by
  simp only [State.readByte, h.mem, h.cfg]

theorem loadBytes (h : Passes f .inner) (s : State) (as : List Nat) : (f s).loadBytes as = s.loadBytes as :=
  List.map_congr_left fun a _ => h.readByte s a

theorem regsUpTo (h : Passes f .inner) (s : State) (x : Nibble) : (f s).regsUpTo x = s.regsUpTo x := by
  simp only [State.regsUpTo, h.v]

theorem stackAt (h : Passes f .inner) (s : State) (k : Nat) : (f s).stackAt k = s.stackAt k := by
  simp only [State.stackAt, h.stack]

theorem fetch (h : Passes f .inner) (s : State) : (f s).fetch = s.fetch := by
  simp only [State.fetch, h.readByte, h.pc]

/-! It commutes with every write of the inner part: such a write is a copy of the inner part it ends with. -/

/-- A write g whose effect is that of copying the inner part of its end commutes with f. -/
theorem write {g : State → State} (h : Passes f .inner) (s : State) (hf : g (f s) = Part.inner.copy (g s) (f s))
    (hs : g s = Part.inner.copy (g s) s) : g (f s) = f (g s) := by
  rw [hf, h, ← hs]

theorem setRegs (h : Passes f .inner) (s : State) (v : Vector Byte 16) : (f s).setRegs v = f (s.setRegs v) :=
  h.write (g := (·.setRegs v)) s (by rw [h.eq_copy s]; rfl) rfl

theorem setV (h : Passes f .inner) (s : State) (r : Nibble) (b : Byte) : (f s).setV r b = f (s.setV r b) :=
  h.write (g := (·.setV r b)) s (by rw [h.eq_copy s]; rfl) rfl

theorem setPc (h : Passes f .inner) (s : State) (a : Word) : (f s).setPc a = f (s.setPc a) :=
  h.write (g := (·.setPc a)) s (by rw [h.eq_copy s]; rfl) rfl

theorem setI (h : Passes f .inner) (s : State) (a : Word) : (f s).setI a = f (s.setI a) :=
  h.write (g := (·.setI a)) s (by rw [h.eq_copy s]; rfl) rfl

theorem setSp (h : Passes f .inner) (s : State) (b : Byte) : (f s).setSp b = f (s.setSp b) :=
  h.write (g := (·.setSp b)) s (by rw [h.eq_copy s]; rfl) rfl

theorem pushReturn (h : Passes f .inner) (s : State) (a : Word) : (f s).pushReturn a = f (s.pushReturn a) :=
  h.write (g := (·.pushReturn a)) s (by rw [h.eq_copy s]; rfl) rfl

theorem setFault (h : Passes f .inner) (s : State) (e : Option MachineError) : (f s).setFault e = f (s.setFault e) :=
  h.write (g := (·.setFault e)) s (by rw [h.eq_copy s]; rfl) rfl

theorem writeByte (h : Passes f .inner) (s : State) (a : Nat) (b : Byte) : (f s).writeByte a b = f (s.writeByte a b) :=
  h.write (g := (·.writeByte a b)) s (by rw [h.eq_copy s]; rfl) rfl

theorem writeRF (h : Passes f .inner) (s : State) (x : Nibble) (r : Byte) (c : Bool) :
    (f s).writeRF x r c = f (s.writeRF x r c) := by
  unfold State.writeRF
  rw [h.cfg]
  cases s.cfg.vfOrder <;> simp only [h.setV]

theorem storeBytes (h : Passes f .inner) (s : State) (as : List Nat) (bs : List Byte) :
    (f s).storeBytes as bs = f (s.storeBytes as bs) := by
  induction as generalizing s bs with
  | nil => rfl
  | cons a as ih =>
    cases bs with
    | nil => rfl
    | cons b bs => rw [State.storeBytes, State.storeBytes, h.writeByte, ih]

theorem storeImage (h : Passes f .inner) (s : State) (a : Nat) (bs : List Byte) :
    (f s).storeImage a bs = f (s.storeImage a bs) := by
  induction bs generalizing s a with
  | nil => rfl
  | cons b bs ih => rw [State.storeImage, State.storeImage, h.writeByte, ih]

/-! The random source and the screen. -/

theorem nextRand (h : Passes f .source) (s : State) : (f s).env.nextRand = s.env.nextRand := by
  simp only [Env.nextRand, h.read s (·.env.rands) rfl, h.read s (·.env.draws) rfl]

theorem afterDraw (h : Passes f .source) (s : State) :
    (f s).setEnv (f s).env.afterDraw = f (s.setEnv s.env.afterDraw) := by
  have hw := h (s.setEnv s.env.afterDraw) s
  have hs : Part.source.copy (s.setEnv s.env.afterDraw) s = s.setEnv s.env.afterDraw := by
    simp only [Env.afterDraw_eq]
    rfl
  rw [← hs, ← hw]
  simp only [Env.afterDraw_eq, h.read s (·.env.rands) rfl, h.read s (·.env.draws) rfl]
  rfl

theorem setFb_setDisplayChanged (h : Passes f .screen) (s : State) (fb : Framebuffer) (c : Bool) :
    ((f s).setFb fb).setDisplayChanged c = f ((s.setFb fb).setDisplayChanged c) :=
  h ((s.setFb fb).setDisplayChanged c) s

/-! The two ends of an instruction. -/

theorem complete (h : Passes f .inner) (d : Directive) (s : State) :
    Machine.complete d (f s) = mapNext f (Machine.complete d s) := by
  rw [complete_eq, complete_eq, h.pc, h.setPc]
  rfl

theorem raise (h : Passes f .inner) (e : MachineError) (s : State) :
    Machine.raise e (f s) = mapNext f (Machine.raise e s) := by
  rw [raise_eq, raise_eq, h.setFault]
  rfl

end Passes

/-! ## A change that passes by what an instruction uses passes by the instruction -/

theorem exec_comm {f : State → State} {i : Instr} (hf : ∀ p ∈ uses i, Passes f p) (s : State) :
    exec i (f s) = mapNext f (exec i s) := by
  have h : Passes f .inner := hf _ (inner_mem_uses i)
  cases i
  case ret =>
    simp only [exec, execRet, h.sp, h.stackAt, h.setSp, h.raise, h.complete]
    split
    · rfl
    · cases s.stackAt (s.sp - 1).toNat <;> rfl
  case call nnn =>
    simp only [exec, execCall, h.sp, h.pc, h.pushReturn, h.raise, h.complete]
    split
    · rfl
    · split <;> rfl
  case sys nnn =>
    simp only [exec, execSys, h.cfg, h.raise, h.complete]
    cases s.cfg.sysPolicy <;> rfl
  case skp x | sknp x =>
    have hkeys : (f s).env.keys = s.env.keys := (hf .keys (by simp [uses])).read s (·.env.keys) rfl
    simp only [exec, execSkp, execSknp, State.keyDown, hkeys, h.cfg, h.getV, h.raise, h.complete]
    cases keyIndex s.cfg.keyIndex (s.getV x) <;> rfl
  case shr x y | shl x y =>
    have hquirk : (f s).env.shiftReadsVy = s.env.shiftReadsVy :=
      (hf .shiftQuirk (by simp [uses])).read s (·.env.shiftReadsVy) rfl
    simp only [exec, execShr, execShl, State.shiftSource, hquirk, h.getV, h.writeRF, h.complete]
  case ldBVx x =>
    simp only [exec, execLdBVx, h.cfg, h.i, h.getV, h.storeBytes, h.raise, h.complete]
    cases resolveRange s.cfg.memOob s.i.toNat 3 <;> rfl
  case ldMemVx x | ldVxMem x =>
    have hquirk : (f s).env.indexIncrements = s.env.indexIncrements :=
      (hf .indexQuirk (by simp [uses])).read s (·.env.indexIncrements) rfl
    simp only [exec, execLdMemVx, execLdVxMem, State.indexAfter, hquirk, h.cfg, h.i, h.v, h.regsUpTo, h.storeBytes,
      h.loadBytes, h.setRegs, h.setI, h.raise, h.complete]
    cases resolveRange s.cfg.memOob s.i.toNat (x.toNat + 1) <;> rfl
  case rnd x kk =>
    have hs := hf .source (by simp [uses])
    have henv (r : Byte) : (f s).env = (f (s.setV x r)).env := by
      rw [← h.setV]
      rfl
    have hdraw (r : Byte) := henv r ▸ hs.afterDraw (s.setV x r)
    simp only [exec, execRnd, hs.nextRand, h.setV, hdraw, h.complete]
    rfl
  case cls =>
    have hs := hf .screen (by simp [uses])
    simp only [exec, execCls, h.cfg, hs.read s State.displayChanged rfl, hs.setFb_setDisplayChanged, h.complete]
  case drw x y n =>
    have hs := hf .screen (by simp [uses])
    have hdraw (fb : Framebuffer) (r : Nibble) (b : Byte) (c : Bool) :
        (((f s).setFb fb).setV r b).setDisplayChanged c = f (((s.setFb fb).setV r b).setDisplayChanged c) := by
      have hw := hs.setFb_setDisplayChanged (s.setV r b) fb c
      rw [← h.setV] at hw
      exact hw
    simp only [exec, execDrw, h.cfg, h.i, h.getV, h.loadBytes, hs.read s State.fb rfl, hdraw, h.raise, h.complete]
    cases resolveRange s.cfg.memOob s.i.toNat n.toNat <;> rfl
  case ldVxDt x =>
    have hdt : (f s).dt = s.dt := (hf .dt (by simp [uses])).read s State.dt rfl
    simp only [exec, execLdVxDt, hdt, h.setV, h.complete]
  case ldDtVx x =>
    have hdt : (f s).setDt (s.getV x) = f (s.setDt (s.getV x)) := hf .dt (by simp [uses]) (s.setDt (s.getV x)) s
    simp only [exec, execLdDtVx, h.getV, hdt, h.complete]
  case ldStVx x =>
    have hst : (f s).setSt (s.getV x) = f (s.setSt (s.getV x)) := hf .st (by simp [uses]) (s.setSt (s.getV x)) s
    simp only [exec, execLdStVx, h.getV, hst, h.complete]
  case ldVxK x =>
    have hwait : ((f s).setWaitActive true).setWaitReg x = f ((s.setWaitActive true).setWaitReg x) :=
      hf .waitLatch (by simp [uses]) ((s.setWaitActive true).setWaitReg x) s
    simp only [exec, execLdVxK, hwait, h.complete]
  case jp => exact h.complete _ s
  case jpV0 => simp only [exec, execJpV0, h.getV, h.complete]
  case seImm | sneImm | seReg | sneReg =>
    simp only [exec, execSeImm, execSneImm, execSeReg, execSneReg, h.getV, h.complete]
  case ldI | addIVx | ldFVx =>
    simp only [exec, execLdI, execAddIVx, execLdFVx, h.getV, h.i, h.setI, h.complete]
  case ldImm | addImm | ldReg | orReg | andReg | xorReg =>
    simp only [exec, execLdImm, execAddImm, execLdReg, execOrReg, execAndReg, execXorReg, h.getV, h.setV, h.complete]
  case addReg | subReg | subnReg =>
    simp only [exec, execAddReg, execSubReg, execSubnReg, h.getV, h.writeRF, h.complete]

/-- A change that passes every part by. -/
theorem exec_comm_of_passes_all {f : State → State} (hf : ∀ p, Passes f p) (i : Instr) (s : State) :
    exec i (f s) = mapNext f (exec i s) :=
  exec_comm (fun p _ => hf p) s

/-! ## The changes the statements speak of -/

theorem passes_withOps (ops : List HostOp) (p : Part) : Passes (·.withOps ops) p := by
  cases p <;> exact fun _ _ => rfl

theorem passes_withKeys (keys : Word) {p : Part} (hp : p ≠ .keys) : Passes (·.withKeys keys) p := by
  cases p
  case keys => exact absurd rfl hp
  all_goals exact fun _ _ => rfl

theorem passes_withShiftQuirk (b : Bool) {p : Part} (hp : p ≠ .shiftQuirk) : Passes (·.withShiftQuirk b) p := by
  cases p
  case shiftQuirk => exact absurd rfl hp
  all_goals exact fun _ _ => rfl

theorem passes_withIndexQuirk (b : Bool) {p : Part} (hp : p ≠ .indexQuirk) : Passes (·.withIndexQuirk b) p := by
  cases p
  case indexQuirk => exact absurd rfl hp
  all_goals exact fun _ _ => rfl

theorem passes_setSt (b : Byte) {p : Part} (hp : p ≠ .st) : Passes (·.setSt b) p := by
  cases p
  case st => exact absurd rfl hp
  all_goals exact fun _ _ => rfl

theorem passes_setDt (b : Byte) {p : Part} (hp : p ≠ .dt) : Passes (·.setDt b) p := by
  cases p
  case dt => exact absurd rfl hp
  all_goals exact fun _ _ => rfl

theorem passes_setFb (fb : Framebuffer) {p : Part} (hp : p ≠ .screen) : Passes (·.setFb fb) p := by
  cases p
  case screen => exact absurd rfl hp
  all_goals exact fun _ _ => rfl

theorem passes_setDisplayChanged (b : Bool) {p : Part} (hp : p ≠ .screen) : Passes (·.setDisplayChanged b) p := by
  cases p
  case screen => exact absurd rfl hp
  all_goals exact fun _ _ => rfl

theorem passes_setSoundActive (b : Bool) (p : Part) : Passes (·.setSoundActive b) p := by
  cases p <;> exact fun _ _ => rfl

theorem passes_setPrevKeys (m : Word) (p : Part) : Passes (·.setPrevKeys m) p := by
  cases p <;> exact fun _ _ => rfl

theorem passes_setWaitActive (b : Bool) {p : Part} (hp : p ≠ .waitLatch) : Passes (·.setWaitActive b) p := by
  cases p
  case waitLatch => exact absurd rfl hp
  all_goals exact fun _ _ => rfl

theorem passes_setWaitReg (r : Nibble) {p : Part} (hp : p ≠ .waitLatch) : Passes (·.setWaitReg r) p := by
  cases p
  case waitLatch => exact absurd rfl hp
  all_goals exact fun _ _ => rfl

theorem Passes.comp {f g : State → State} {p : Part} (hg : Passes g p) (hf : Passes f p) :
    Passes (fun s => g (f s)) p :=
  fun u s => (hg u (f s)).trans (congrArg g (hf u s))

/-- An instruction passes by a change that passes by every part but one it does not use. -/
theorem exec_comm_of_unused {f : State → State} {q : Part} {i : Instr} (hf : ∀ {p}, p ≠ q → Passes f p)
    (hq : q ∉ uses i) (s : State) : exec i (f s) = mapNext f (exec i s) :=
  exec_comm (fun _ hp => hf (ne_of_mem_of_not_mem hp hq)) s

/-! ## Who uses which part -/

theorem keys_not_mem_uses {i : Instr} (h : ∀ x, i ≠ .skp x ∧ i ≠ .sknp x) : .keys ∉ uses i := by
  cases i <;> simp_all [uses]

theorem shiftQuirk_not_mem_uses {i : Instr} (h : ∀ x y, i ≠ .shr x y ∧ i ≠ .shl x y) : .shiftQuirk ∉ uses i := by
  cases i <;> simp_all [uses]

theorem indexQuirk_not_mem_uses {i : Instr} (h : ∀ x, i ≠ .ldMemVx x ∧ i ≠ .ldVxMem x) : .indexQuirk ∉ uses i := by
  cases i <;> simp_all [uses]

theorem st_not_mem_uses {i : Instr} (h : ∀ x, i ≠ .ldStVx x) : .st ∉ uses i := by
  cases i <;> simp_all [uses]

theorem dt_not_mem_uses {i : Instr} (h : ∀ x, i ≠ .ldVxDt x ∧ i ≠ .ldDtVx x) : .dt ∉ uses i := by
  cases i <;> simp_all [uses]

theorem waitLatch_not_mem_uses {i : Instr} (h : ∀ x, i ≠ .ldVxK x) : .waitLatch ∉ uses i := by
  cases i <;> simp_all [uses]

theorem screen_not_mem_uses {i : Instr} (hcls : i ≠ .cls) (hdrw : ∀ x y n, i ≠ .drw x y n) : .screen ∉ uses i := by
  cases i <;> simp_all [uses]

/-! ## The obligations on single instructions -/

/-- Settles O54: another keys input passes by every part but the keys, which SKP and SKNP alone use. -/
theorem onlyKeySkipsReadTheKeys : Obligations.OnlyKeySkipsReadTheKeys :=
  fun _ s keys hi => exec_comm_of_unused (passes_withKeys keys) (keys_not_mem_uses hi) s

/-- Settles O55: each quirk input is a part two instructions use. -/
theorem quirksReachOnlyTheirInstructions : Obligations.QuirksReachOnlyTheirInstructions :=
  fun _ s b => ⟨fun hi => exec_comm_of_unused (passes_withShiftQuirk b) (shiftQuirk_not_mem_uses hi) s,
    fun hi => exec_comm_of_unused (passes_withIndexQuirk b) (indexQuirk_not_mem_uses hi) s⟩

theorem mapNext_mapNext (f g : State → State) (o : Host.Outcome State Fault Refusal) :
    mapNext g (mapNext f o) = mapNext (fun t => g (f t)) o := by
  cases o <;> rfl

/-- DRW sets display_changed whatever it was, so only an error leaves the two ends apart in that flag. -/
theorem drw_setDisplayChanged (x y n : Nibble) (s : State) (b c : Bool) :
    mapNext (·.setDisplayChanged c) (exec (.drw x y n) (s.setDisplayChanged b)) =
      mapNext (·.setDisplayChanged c) (exec (.drw x y n) s) := by
  by_cases hr : DataInReach s n.toNat
  · have hr' : DataInReach (s.setDisplayChanged b) n.toNat := hr
    rw [exec_drw, exec_drw, execDrw_of_inReach hr, execDrw_of_inReach hr']
    rfl
  · have hr' : ¬ DataInReach (s.setDisplayChanged b) n.toNat := hr
    rw [exec_drw, exec_drw, execDrw_of_not_inReach hr, execDrw_of_not_inReach hr']
    rfl

/-- With display_changed put at one value, another value of it before an instruction leaves the same end. -/
theorem exec_setDisplayChanged (i : Instr) (s : State) (b c : Bool) :
    mapNext (·.setDisplayChanged c) (exec i (s.setDisplayChanged b)) = mapNext (·.setDisplayChanged c) (exec i s) := by
  by_cases hcls : i = .cls
  · subst hcls
    rfl
  · by_cases hdrw : ∀ x y n, i ≠ .drw x y n
    · have hcomm := exec_comm_of_unused (passes_setDisplayChanged b) (screen_not_mem_uses hcls hdrw) s
      rw [hcomm, mapNext_mapNext]
      rfl
    · simp only [not_forall, not_not] at hdrw
      obtain ⟨x, y, n, rfl⟩ := hdrw
      exact drw_setDisplayChanged x y n s b c

/-- Settles O56: each change passes by every part but one, and what overwrites that part does not read it. -/
theorem unreadStateReachesNothingElse : Obligations.UnreadStateReachesNothingElse := by
  refine fun i s => ⟨fun b hi => exec_comm_of_unused (passes_setSt b) (st_not_mem_uses hi) s, fun b x => rfl,
    fun b c => exec_setDisplayChanged i s b c, fun b => exec_comm_of_passes_all (passes_setSoundActive b) i s,
    fun m => exec_comm_of_passes_all (passes_setPrevKeys m) i s, fun b r hi => ?_, fun b r x => rfl,
    fun fb hcls hdrw => exec_comm_of_unused (passes_setFb fb) (screen_not_mem_uses hcls hdrw) s, fun fb => rfl,
    fun b hi => exec_comm_of_unused (passes_setDt b) (dt_not_mem_uses hi) s, fun b x => rfl⟩
  exact exec_comm_of_unused (f := fun t => (t.setWaitActive b).setWaitReg r)
    (fun hp => (passes_setWaitReg r hp).comp (passes_setWaitActive b hp)) (waitLatch_not_mem_uses hi) s

/-! ## The TICK -/

/-- A change f of the state reaches the end of a TICK as h, as far as g shows, where it does so for each instruction and
passes by the inner part and the stall. -/
theorem tick_mapNext {f g h : State → State} (hf : Passes f .inner) (s : State) (hstall : (f s).stalled = s.stalled)
    (hg : ∀ t, g (f t) = h t) (hexec : ∀ i, mapNext g (exec i (f s)) = mapNext h (exec i s)) :
    mapNext g (tick (f s)) = mapNext h (tick s) := by
  have hraise (e : MachineError) : mapNext g (raise e (f s)) = mapNext h (raise e s) := by
    rw [hf.raise, mapNext_mapNext, funext hg]
  have hrun : mapNext g (runFetched (f s)) = mapNext h (runFetched s) := by
    unfold runFetched
    rw [hf.cfg, hf.fetch]
    cases decode s.cfg.sysPolicy s.fetch.1 s.fetch.2 with
    | instr i => exact hexec i
    | badOperation b1 b2 => exact hraise _
  have hnext : mapNext g (.next (f s)) = mapNext h (.next s) := congrArg Host.Outcome.next (hg s)
  unfold tick
  rw [hf.fault, hstall, hf.pc]
  split
  · exact hnext
  · split
    · exact hnext
    · split
      · exact hrun
      · exact hraise _

theorem mapNext_id (o : Host.Outcome State Fault Refusal) : mapNext (fun t => t) o = o := by
  cases o <;> rfl

/-- The rest of the schedule reaches no TICK (log 2). -/
theorem tick_withOps (ops : List HostOp) (s : State) :
    tick (s.withOps ops) = mapNext (·.withOps ops) (tick s) := by
  have h := tick_mapNext (f := (·.withOps ops)) (g := fun t => t) (h := (·.withOps ops)) (passes_withOps ops .inner) s rfl
    (fun _ => rfl) (fun i => (mapNext_id _).trans (exec_comm_of_passes_all (passes_withOps ops) i s))
  rwa [mapNext_id] at h

/-! ## The tick under advance and under hold -/

theorem tick_of_pc_in_range {s : State} (hf : s.fault = none) (hw : s.cfg.keyWait = .advance ∨ s.waitActive = false)
    (hp : s.pc.toNat ≤ 0xFFE) : tick s = runFetched s := by
  have hp' : pcInRange s.pc = true := decide_eq_true hp
  simp [tick, hf, s.stalled_eq_false.mpr hw, hp']

theorem tick_of_pc_out_of_range {s : State} (hf : s.fault = none) (hw : s.cfg.keyWait = .advance ∨ s.waitActive = false)
    (hp : 0xFFE < s.pc.toNat) : tick s = raise .programCounterOutOfBounds s := by
  have hp' : pcInRange s.pc = false := decide_eq_false (Nat.not_le.mpr hp)
  simp [tick, hf, s.stalled_eq_false.mpr hw, hp']

/-- Settles O42: the two sides of the PC check. -/
theorem pcIsCheckedBeforeFetch : Obligations.PcIsCheckedBeforeFetch :=
  fun s hf hw => ⟨fun hp => tick_of_pc_out_of_range hf hw hp ▸ raise_takesError _ s, tick_of_pc_in_range hf hw⟩

/-- An instruction does not read wait_active; LD Vx, K overwrites it. -/
theorem exec_setWaitActive (i : Instr) (s : State) (b c : Bool) :
    mapNext (·.setWaitActive c) (exec i (s.setWaitActive b)) = mapNext (·.setWaitActive c) (exec i s) := by
  by_cases hi : ∀ x, i ≠ .ldVxK x
  · have hcomm := exec_comm_of_unused (passes_setWaitActive b) (waitLatch_not_mem_uses hi) s
    rw [hcomm, mapNext_mapNext]
    rfl
  · obtain ⟨x, rfl⟩ := not_forall_not.mp hi
    rfl

/-- Settles O57: under advance no TICK is stalled, and wait_active passes by every instruction. -/
theorem advanceIgnoresTheWait : Obligations.AdvanceIgnoresTheWait := by
  intro s hadv
  refine ⟨fun hf hp => tick_of_pc_in_range hf (.inl hadv) hp,
    fun hf hp => tick_of_pc_out_of_range hf (.inl hadv) hp ▸ raise_takesError _ s, fun b c => ?_⟩
  have hstall : (s.setWaitActive b).stalled = s.stalled := by
    rw [s.stalled_eq_false.mpr (.inl hadv), State.stalled_eq_false]
    exact .inl hadv
  exact tick_mapNext (passes_setWaitActive b (by simp)) s hstall (fun _ => rfl) (fun i => exec_setWaitActive i s b c)

end Sys2Proof.Machine

/-! PROOFS about the schedule and the step (60_exceptions.md R300 to R302, 30_encoding.md R80 to R82). -/

namespace Sys2Proof.Machine

/-! ## What is still scheduled reaches no operation -/

theorem frameStep_withOps (ops : List HostOp) (s : State) : frameStep (s.withOps ops) = (frameStep s).withOps ops := by
  cases hf : s.fault with
  | none =>
    have hf' : (s.withOps ops).fault = none := hf
    rw [frameStep_of_running hf, frameStep_of_running hf']
    rfl
  | some e =>
    have h : s.fault.isSome := by simp [hf]
    have h' : (s.withOps ops).fault.isSome := h
    rw [frameStep_of_fault h, frameStep_of_fault h']

theorem keyEdge_withOps (edge : Word) (ops : List HostOp) (s : State) :
    keyEdge edge (s.withOps ops) = (keyEdge edge s).withOps ops := by
  have hfault : (s.withOps ops).fault = s.fault := rfl
  have hwait : (s.withOps ops).waitActive = s.waitActive := rfl
  unfold keyEdge
  rw [hfault, hwait]
  split
  · rfl
  · split
    · cases lowestKey edge <;> rfl
    · rfl

theorem keyPoll_withOps (keys : Word) (ops : List HostOp) (s : State) :
    keyPoll keys (s.withOps ops) = (keyPoll keys s).withOps ops := by
  have hfault : (s.withOps ops).fault = s.fault := rfl
  unfold keyPoll
  rw [hfault]
  split
  · rfl
  · exact keyEdge_withOps _ ops (s.setPrevKeys keys)

theorem loadImage_withOps (p : List Byte) (ops : List HostOp) (s : State) :
    loadImage p (s.withOps ops) = (loadImage p s).withOps ops := by
  have hfault : (s.withOps ops).fault = s.fault := rfl
  have hcfg : (s.withOps ops).cfg = s.cfg := rfl
  unfold loadImage
  rw [hfault, hcfg]
  split
  · split <;> rfl
  · exact (passes_withOps ops .inner).storeImage (resetBlock s) _ p

/-- An operation does the same whatever is scheduled after it (log 2). -/
theorem runOp_withOps (op : HostOp) (ops : List HostOp) (s : State) :
    runOp op (s.withOps ops) = mapNext (·.withOps ops) (runOp op s) := by
  cases op with
  | tick keys => exact tick_withOps ops (s.withKeys keys)
  | frame => exact congrArg Host.Outcome.next (frameStep_withOps ops s)
  | keyEdge edge => exact congrArg Host.Outcome.next (keyEdge_withOps edge ops s)
  | keyPoll keys => exact congrArg Host.Outcome.next (keyPoll_withOps keys ops s)
  | load p => exact congrArg Host.Outcome.next (loadImage_withOps p ops s)
  | reset | drive => rfl

theorem performOps_cons {op : HostOp} {ops : List HostOp} {s t : State} (h : runOp op s = .next t) :
    performOps (op :: ops) s = performOps ops t := by
  rw [performOps, h]

/-! ## Runs -/

/-- The invariant's steps put together: runs of every length go on. -/
theorem run_answers_of_inv (n : Nat) {s : State} (hs : s.Inv) : ∃ t, Sys2Proof.core.run n s = .next t ∧ t.Inv := by
  induction n generalizing s with
  | zero => exact ⟨s, rfl, hs⟩
  | succ n ih =>
    obtain ⟨u, hu⟩ := stepNeverStops s hs
    obtain ⟨t, ht, hinv⟩ := ih (stepKeepsInvariant s u hs hu)
    exact ⟨t, (run_succ_of_step (M := Sys2Proof.core) hu).trans ht, hinv⟩

/-- As many steps as operations are scheduled perform them one after the other. -/
theorem run_schedule_of_inv (ops : List HostOp) {s : State} (hs : s.Inv) (hops : s.env.ops = ops) :
    ∃ t, Sys2Proof.core.run ops.length s = .next t ∧ performOps ops (s.withOps []) = .next t ∧ t.env.ops = [] ∧
      t.Inv := by
  induction ops generalizing s with
  | nil =>
    have hself : s.withOps [] = s := by
      rw [← hops]
      rfl
    exact ⟨s, rfl, congrArg Host.Outcome.next hself, hops, hs⟩
  | cons op ops ih =>
    obtain ⟨u, hu⟩ := stepNeverStops s hs
    have hop : runOp op (s.withOps ops) = .next u := (step_of_op hops).symm.trans hu
    obtain ⟨-, hrest⟩ := runOp_next_cfg_ops hop
    obtain ⟨t, hrun, hperform, hdone, hinv⟩ := ih (stepKeepsInvariant s u hs hu) hrest
    have hfirst : runOp op (s.withOps []) = .next (u.withOps []) := by
      have hcomm := runOp_withOps op [] (s.withOps ops)
      rw [hop] at hcomm
      exact hcomm
    exact ⟨t, (run_succ_of_step (M := Sys2Proof.core) hu).trans hrun, (performOps_cons hfirst).trans hperform, hdone,
      hinv⟩

/-- Settles O50: by induction on the schedule, each step being its next operation. -/
theorem everyScheduleIsCarriedOut : Obligations.EveryScheduleIsCarriedOut :=
  fun _ hs => ⟨run_schedule_of_inv _ hs rfl, fun n => run_answers_of_inv n hs⟩

/-! ## The step runs the instruction at PC -/

theorem runFetched_of_instr {s : State} {i : Instr}
    (h : decode s.cfg.sysPolicy (s.readByte s.pc.toNat) (s.readByte (s.pc.toNat + 1)) = .instr i) :
    runFetched s = exec i s := by
  simp only [runFetched, State.fetch, h]

/-- Settles O45: a step is its operation by definition, and a TICK at a PC in range is what it fetched. -/
theorem stepRunsTheDecodedInstruction : Obligations.StepRunsTheDecodedInstruction := by
  refine ⟨fun s op ops h => step_of_op h, fun s h => step_of_no_ops h,
    fun s i hf hw hp hd => ⟨fun h => ?_, fun keys ops h => ?_⟩⟩
  · rw [step_of_no_ops h, tick_of_pc_in_range hf hw hp, runFetched_of_instr hd]
  · rw [step_of_op h]
    exact (tick_of_pc_in_range (s := (s.withOps ops).withKeys keys) hf hw hp).trans (runFetched_of_instr hd)

/-! ## The model's probe -/

theorem fetchablePc_le (pc : Word) : (fetchablePc pc).toNat ≤ 0xFFE := by
  unfold fetchablePc
  split
  · next h => exact of_decide_eq_true h
  · decide

/-- The 16 bits of a table word. -/
def tableWord (w : Nat) : Word := BitVec.ofNat 16 (w % 2 ^ 16)

/-- Two bytes stored at PC are the two fetched there (20_memory.md R55). -/
theorem State.fetch_writeByte_writeByte {s : State} (hm : s.memOk) (hp : s.pc.toNat ≤ 0xFFE) (b1 b2 : Byte) :
    ((s.writeByte s.pc.toNat b1).writeByte (s.pc.toNat + 1) b2).fetch = (b1, b2) := by
  have hm1 : (s.writeByte s.pc.toNat b1).memOk := State.writeByte_memOk s _ b1 (by omega) hm
  refine Prod.ext ?_ (State.readByte_writeByte_self _ _ b2 hm1)
  exact (State.readByte_writeByte_ne _ b2 (by simp)).trans (State.readByte_writeByte_self s _ b1 hm)

/-- What withFetchWord prepares (log 9): a state whose next step is a TICK that nothing holds, and that fetches the two bytes of
the word. -/
theorem withFetchWord_prepares {s : State} (hm : s.memOk) (w : Nat) :
    (s.withFetchWord 16 w).env.ops = [] ∧ (s.withFetchWord 16 w).fault = none ∧
      (s.withFetchWord 16 w).stalled = false ∧ (s.withFetchWord 16 w).pc.toNat ≤ 0xFFE ∧
      (s.withFetchWord 16 w).cfg = s.cfg ∧
      (s.withFetchWord 16 w).fetch = (hiByte (tableWord w), loByte (tableWord w)) := by
  unfold State.withFetchWord
  dsimp only
  split
  · refine ⟨rfl, rfl, by simp [State.stalled], fetchablePc_le s.pc, rfl, State.fetch_writeByte_writeByte ?_ ?_ _ _⟩
    · exact hm
    · exact fetchablePc_le s.pc
  · next h =>
    refine ⟨rfl, rfl, Bool.eq_false_iff.mpr h, fetchablePc_le s.pc, rfl, State.fetch_writeByte_writeByte ?_ ?_ _ _⟩
    · exact hm
    · exact fetchablePc_le s.pc

/-- A table word that holds an instruction decodes to it under any policy that allows the instruction. -/
theorem decode_of_decodeTableWord {w : Nat} {i : Instr} (h : decodeTableWord 16 w = some i) {p : SysPolicy}
    (hp : p = .nop ∨ ∀ nnn, i ≠ .sys nnn) : decode p (hiByte (tableWord w)) (loByte (tableWord w)) = .instr i := by
  have hnop : decode .nop (hiByte (tableWord w)) (loByte (tableWord w)) = .instr i := by
    unfold decodeTableWord at h
    dsimp only at h
    split at h
    · next hd => exact hd.trans (congrArg Decoded.instr (Option.some.inj h))
    · cases h
  rcases hp with rfl | hs
  · exact hnop
  · exact decode_of_table (decodeTable_of_decode hnop) hs p

/-- Settles O46: the placed bytes are fetched back, and nothing keeps the next step from running them. -/
theorem placedWordRunsNext : Obligations.PlacedWordRunsNext := by
  intro s w i hm hw hp
  obtain ⟨hops, hf, hstall, hrange, hcfg, hfetch⟩ := withFetchWord_prepares hm w
  have hd := decode_of_decodeTableWord hw hp
  rw [step_of_no_ops hops, tick_of_pc_in_range hf (State.stalled_eq_false _ |>.mp hstall) hrange, runFetched, hfetch, hcfg]
  simp only [hd]

end Sys2Proof.Machine

/-! PROOFS of what each instruction leaves as it was (10_state.md R20 to R38): the frame of every write, and which
instruction makes which. -/

namespace Sys2Proof.Machine

/-! ## Frames: what one write after another leaves -/

theorem Piece.same_trans {p : Piece} {s t u : State} (h : p.same s t) (h' : p.same t u) : p.same s u := by
  cases p
  case v => exact fun r => (h' r).trans (h r)
  case mem => exact fun a => (h' a).trans (h a)
  all_goals exact Eq.trans h' h

theorem KeepsAllBut.refl (ps : List Piece) (s : State) : KeepsAllBut ps s s := by
  intro p _
  cases p
  case v => exact fun _ => rfl
  case mem => exact fun _ => rfl
  all_goals exact Eq.refl _

theorem KeepsAllBut.trans {ps qs : List Piece} {s t u : State} (h : KeepsAllBut ps s t) (h' : KeepsAllBut qs t u) :
    KeepsAllBut (ps ++ qs) s u := by
  intro p hp
  rw [List.mem_append, not_or] at hp
  exact Piece.same_trans (h p hp.1) (h' p hp.2)

theorem KeepsAllBut.mono {ps qs : List Piece} {s t : State} (h : KeepsAllBut ps s t) (hsub : ps ⊆ qs) :
    KeepsAllBut qs s t :=
  fun p hp => h p fun hmem => hp (hsub hmem)

/-! One lemma per update of the state: it keeps every piece but its own. -/

section
variable (s : State)

theorem State.setRegs_keeps (v : Vector Byte 16) : KeepsAllBut [.v] s (s.setRegs v) :=
  fun p hp => by cases p <;> simp_all [Piece.same]

theorem State.setV_keeps (r : Nibble) (b : Byte) : KeepsAllBut [.v] s (s.setV r b) := s.setRegs_keeps _

theorem State.writeRF_keeps (x : Nibble) (r : Byte) (f : Bool) : KeepsAllBut [.v] s (s.writeRF x r f) :=
  s.writeRF_eq_setRegs x r f ▸ s.setRegs_keeps _

theorem State.setI_keeps (a : Word) : KeepsAllBut [.i] s (s.setI a) :=
  fun p hp => by cases p <;> simp_all [Piece.same]

theorem State.setStack_keeps (a : Vector Word 16) : KeepsAllBut [.stack] s (s.setStack a) :=
  fun p hp => by cases p <;> simp_all [Piece.same]

theorem State.setSp_keeps (b : Byte) : KeepsAllBut [.sp] s (s.setSp b) :=
  fun p hp => by cases p <;> simp_all [Piece.same]

theorem State.pushReturn_keeps (a : Word) : KeepsAllBut [.stack, .sp] s (s.pushReturn a) :=
  (s.setStack_keeps _).trans (State.setSp_keeps _ _)

theorem State.setDt_keeps (b : Byte) : KeepsAllBut [.dt] s (s.setDt b) :=
  fun p hp => by cases p <;> simp_all [Piece.same]

theorem State.setSt_keeps (b : Byte) : KeepsAllBut [.st] s (s.setSt b) :=
  fun p hp => by cases p <;> simp_all [Piece.same]

theorem State.setMem_keeps (m : List Host.Cell) : KeepsAllBut [.mem] s (s.setMem m) :=
  fun p hp => by cases p <;> simp_all [Piece.same, State.getV]

theorem State.storeBytes_keeps (as : List Nat) (bs : List Byte) : KeepsAllBut [.mem] s (s.storeBytes as bs) :=
  s.storeBytes_eq_setMem as bs ▸ s.setMem_keeps _

theorem State.storeImage_keeps (a : Nat) (bs : List Byte) : KeepsAllBut [.mem] s (s.storeImage a bs) :=
  s.storeImage_eq_setMem a bs ▸ s.setMem_keeps _

theorem State.setFb_keeps (fb : Framebuffer) : KeepsAllBut [.fb] s (s.setFb fb) :=
  fun p hp => by cases p <;> simp_all [Piece.same]

theorem State.setDisplayChanged_keeps (b : Bool) : KeepsAllBut [.displayChanged] s (s.setDisplayChanged b) :=
  fun p hp => by cases p <;> simp_all [Piece.same]

theorem State.setWaitActive_keeps (b : Bool) : KeepsAllBut [.waitActive] s (s.setWaitActive b) :=
  fun p hp => by cases p <;> simp_all [Piece.same]

theorem State.setWaitReg_keeps (r : Nibble) : KeepsAllBut [.waitReg] s (s.setWaitReg r) :=
  fun p hp => by cases p <;> simp_all [Piece.same]

theorem State.setPrevKeys_keeps (m : Word) : KeepsAllBut [.prevKeys] s (s.setPrevKeys m) :=
  fun p hp => by cases p <;> simp_all [Piece.same]

theorem State.setEnv_keeps (e : Env) : KeepsAllBut [.env] s (s.setEnv e) :=
  fun p hp => by cases p <;> simp_all [Piece.same]

/-- The index quirk alone moves I after a block transfer (42_index_memory.md R206). -/
theorem State.setI_indexAfter_keeps {u : State} (hu : u.i = s.i) (x : Nibble) :
    KeepsAllBut (if s.env.indexIncrements then [.i] else []) u (u.setI (s.indexAfter x)) := by
  unfold State.indexAfter
  split
  · exact u.setI_keeps _
  · exact hu ▸ KeepsAllBut.refl [] u

/-- CLS writes display_changed exactly as its parameter c says (43_display.md R232). -/
theorem State.setDisplayChanged_param_keeps (c : Bool) :
    KeepsAllBut (if c then [.displayChanged] else []) s (s.setDisplayChanged (if c then true else s.displayChanged)) := by
  cases c
  · exact KeepsAllBut.refl [] s
  · exact s.setDisplayChanged_keeps true

end

/-- A completed instruction writes PC after what it wrote itself. -/
theorem KeepsAllBut.of_complete {ps : List Piece} {d : Directive} {s u t : State} (hu : KeepsAllBut ps s u)
    (ht : complete d u = .next t) : KeepsAllBut (.pc :: .fault :: ps) s t := by
  obtain rfl := Host.Outcome.next.inj ht
  exact (hu.trans (u.setPc_keepsAllBut _)).mono (by simp)

theorem KeepsAllBut.of_raise {ps : List Piece} {e : MachineError} {s t : State} (ht : raise e s = .next t) :
    KeepsAllBut (.pc :: .fault :: ps) s t := by
  obtain ⟨u, hu, -, hkeeps⟩ := raise_takesError e s
  obtain rfl := Host.Outcome.next.inj (hu.symm.trans ht)
  exact hkeeps.mono (by simp)

/-! ## What each instruction writes -/

/-- The pieces besides PC and fault that instruction i may write from state s. -/
def written (i : Instr) (s : State) : List Piece :=
  match i with
  | .ldImm _ _ | .addImm _ _ | .ldReg _ _ | .orReg _ _ | .andReg _ _ | .xorReg _ _ | .addReg _ _ | .subReg _ _
  | .shr _ _ | .subnReg _ _ | .shl _ _ | .ldVxDt _ => [.v]
  | .rnd _ _ => [.v, .env]
  | .call _ => [.stack, .sp]
  | .ret => [.sp]
  | .ldI _ | .addIVx _ | .ldFVx _ => [.i]
  | .ldDtVx _ => [.dt]
  | .ldStVx _ => [.st]
  | .ldVxK _ => [.waitActive, .waitReg]
  | .ldBVx _ => [.mem]
  | .ldMemVx _ => .mem :: if s.env.indexIncrements then [.i] else []
  | .ldVxMem _ => .v :: if s.env.indexIncrements then [.i] else []
  | .cls => .fb :: if s.cfg.clsSetsDisplayChanged then [.displayChanged] else []
  | .drw _ _ _ => [.fb, .v, .displayChanged]
  | .sys _ | .jp _ | .jpV0 _ | .seImm _ _ | .sneImm _ _ | .seReg _ _ | .sneReg _ _ | .skp _ | .sknp _ => []

/-- Every instruction keeps every piece but PC, fault and those `written` lists for it. -/
theorem exec_keepsAllBut {i : Instr} {s t : State} (ht : exec i s = .next t) :
    KeepsAllBut (.pc :: .fault :: written i s) s t := by
  cases i
  case ret =>
    rcases execRet_cases s with ⟨-, h⟩ | ⟨-, _, h⟩ | ⟨-, h⟩
    · exact .of_raise (h.symm.trans ht)
    · exact (s.setSp_keeps _).of_complete (h.symm.trans ht)
    · cases h.symm.trans ht
  case call nnn =>
    rcases execCall_cases nnn s with ⟨-, h⟩ | ⟨-, h⟩ | ⟨-, h⟩
    · exact .of_raise (h.symm.trans ht)
    · exact (s.pushReturn_keeps _).of_complete (h.symm.trans ht)
    · cases h.symm.trans ht
  case sys nnn =>
    cases hp : s.cfg.sysPolicy with
    | nop => exact (KeepsAllBut.refl _ s).of_complete ((exec_sys_of_nop hp nnn).symm.trans ht)
    | fault =>
      simp only [exec, execSys, hp] at ht
      exact .of_raise ht
  case skp x =>
    have h := (execSkp_eq x s).symm.trans ht
    split at h
    · exact (KeepsAllBut.refl _ s).of_complete h
    · exact .of_raise h
  case sknp x =>
    have h := (execSknp_eq x s).symm.trans ht
    split at h
    · exact (KeepsAllBut.refl _ s).of_complete h
    · exact .of_raise h
  case ldBVx x =>
    by_cases hr : DataInReach s 3
    · exact (s.storeBytes_keeps _ _).of_complete ((execLdBVx_of_inReach hr).symm.trans ht)
    · exact .of_raise ((execLdBVx_of_not_inReach hr).symm.trans ht)
  case ldMemVx x =>
    by_cases hr : DataInReach s (x.toNat + 1)
    · refine ((s.storeBytes_keeps _ _).trans (s.setI_indexAfter_keeps ?_ x)).of_complete
        ((execLdMemVx_of_inReach hr).symm.trans ht)
      exact s.storeBytes_keeps _ _ .i (by simp)
    · exact .of_raise ((execLdMemVx_of_not_inReach hr).symm.trans ht)
  case ldVxMem x =>
    by_cases hr : DataInReach s (x.toNat + 1)
    · refine ((s.setRegs_keeps _).trans (s.setI_indexAfter_keeps ?_ x)).of_complete
        ((execLdVxMem_of_inReach hr).symm.trans ht)
      rfl
    · exact .of_raise ((execLdVxMem_of_not_inReach hr).symm.trans ht)
  case drw x y n =>
    by_cases hr : DataInReach s n.toNat
    · exact (((s.setFb_keeps _).trans (State.setV_keeps _ _ _)).trans (State.setDisplayChanged_keeps _ _)).of_complete
        ((execDrw_of_inReach hr).symm.trans ht)
    · exact .of_raise ((execDrw_of_not_inReach hr).symm.trans ht)
  case cls =>
    exact ((s.setFb_keeps clearFb).trans ((s.setFb clearFb).setDisplayChanged_param_keeps _)).of_complete ht
  case rnd x kk => exact ((s.setV_keeps _ _).trans (State.setEnv_keeps _ _)).of_complete ht
  case addReg | subReg | subnReg | shr | shl => exact (s.writeRF_keeps _ _ _).of_complete ht
  case ldImm | addImm | ldReg | orReg | andReg | xorReg | ldVxDt => exact (s.setV_keeps _ _).of_complete ht
  case ldI | addIVx | ldFVx => exact (s.setI_keeps _).of_complete ht
  case ldDtVx => exact (s.setDt_keeps _).of_complete ht
  case ldStVx => exact (s.setSt_keeps _).of_complete ht
  case ldVxK => exact ((s.setWaitActive_keeps _).trans (State.setWaitReg_keeps _ _)).of_complete ht
  case jp | jpV0 | seImm | sneImm | seReg | sneReg => exact (KeepsAllBut.refl _ s).of_complete ht

/-- A piece an instruction changed, PC and fault apart, is one it may write. -/
theorem mem_written_of_changed {i : Instr} {s t : State} (ht : exec i s = .next t) (p : Piece) (hp : ¬ p.same s t)
    (hother : p ∉ [Piece.pc, .fault] := by simp) : p ∈ written i s := by
  by_contra h
  exact hp (exec_keepsAllBut ht p (by simp_all))

/-! ## Who may write each piece -/

section
variable {i : Instr} {s : State}

theorem sp_mem_written (h : .sp ∈ written i s) : i = .ret ∨ ∃ nnn, i = .call nnn := by
  cases i <;> simp_all [written]

theorem stack_mem_written (h : .stack ∈ written i s) : ∃ nnn, i = .call nnn := by
  cases i <;> simp_all [written]

theorem i_mem_written (h : .i ∈ written i s) :
    (∃ nnn, i = .ldI nnn) ∨ ∃ x, i = .addIVx x ∨ i = .ldFVx x ∨
      (s.env.indexIncrements = true ∧ (i = .ldMemVx x ∨ i = .ldVxMem x)) := by
  cases i <;> simp_all [written]

theorem dt_mem_written (h : .dt ∈ written i s) : ∃ x, i = .ldDtVx x := by
  cases i <;> simp_all [written]

theorem st_mem_written (h : .st ∈ written i s) : ∃ x, i = .ldStVx x := by
  cases i <;> simp_all [written]

theorem mem_mem_written (h : .mem ∈ written i s) : ∃ x, i = .ldBVx x ∨ i = .ldMemVx x := by
  cases i <;> simp_all [written]

theorem fb_mem_written (h : .fb ∈ written i s) : i = .cls ∨ ∃ x y n, i = .drw x y n := by
  cases i <;> simp_all [written]

theorem displayChanged_mem_written (h : .displayChanged ∈ written i s) :
    (i = .cls ∧ s.cfg.clsSetsDisplayChanged = true) ∨ ∃ x y n, i = .drw x y n := by
  cases i <;> simp_all [written]

theorem waitLatch_mem_written (h : .waitActive ∈ written i s ∨ .waitReg ∈ written i s) : ∃ x, i = .ldVxK x := by
  cases i <;> simp_all [written]

theorem env_mem_written (h : .env ∈ written i s) : ∃ x kk, i = .rnd x kk := by
  cases i <;> simp_all [written]

theorem not_mem_written : .soundActive ∉ written i s ∧ .prevKeys ∉ written i s ∧ .cfg ∉ written i s := by
  cases i <;> simp [written]

end

/-! ## Registers, PC and the flag of the screen -/

theorem getV_of_complete_setV {d : Directive} {s t : State} {x r : Nibble} {b : Byte}
    (ht : complete d (s.setV x b) = .next t) (hr : r ≠ x) : t.getV r = s.getV r := by
  obtain rfl := Host.Outcome.next.inj ht
  exact State.getV_setV_ne s b hr

theorem getV_of_complete_writeRF {d : Directive} {s t : State} {x r : Nibble} {b : Byte} {f : Bool}
    (ht : complete d (s.writeRF x b f) = .next t) (hr : ¬ (r = x ∨ r = 15#4)) : t.getV r = s.getV r := by
  obtain ⟨hx, h15⟩ := not_or.mp hr
  obtain rfl := Host.Outcome.next.inj ht
  exact State.writeRF_getV_of_ne s x b f r hx h15

/-- An instruction keeps the V registers it does not name (10_state.md R22). -/
theorem exec_getV_of_not_mayWriteV {i : Instr} {s t : State} {r : Nibble} (ht : exec i s = .next t)
    (hr : ¬ MayWriteV i r) : t.getV r = s.getV r := by
  cases i
  case ldImm | addImm | ldReg | orReg | andReg | xorReg | ldVxDt => exact getV_of_complete_setV ht hr
  case addReg | subReg | subnReg | shr | shl => exact getV_of_complete_writeRF ht hr
  case rnd x kk =>
    obtain rfl := Host.Outcome.next.inj ht
    exact State.getV_setV_ne s _ hr
  case drw x y n =>
    by_cases hreach : DataInReach s n.toNat
    · obtain rfl := Host.Outcome.next.inj ((execDrw_of_inReach hreach).symm.trans ht)
      exact State.getV_setV_ne (s.setFb _) _ hr
    · obtain rfl := Host.Outcome.next.inj ((execDrw_of_not_inReach hreach).symm.trans ht)
      rfl
  case ldVxMem x =>
    by_cases hreach : DataInReach s (x.toNat + 1)
    · obtain rfl := Host.Outcome.next.inj ((execLdVxMem_of_inReach hreach).symm.trans ht)
      have hout : ¬ (0 ≤ r.toNat ∧ r.toNat - 0 < (s.loadBytes (cellsFrom s.i.toNat (x.toNat + 1))).length) := by
        have hr' : ¬ r.toNat ≤ x.toNat := hr
        rw [loadBytes_length, cellsFrom_length]
        omega
      exact (writeRegs_getElem _ 0 s.v r.toNat r.isLt).trans (dif_neg hout)
    · obtain rfl := Host.Outcome.next.inj ((execLdVxMem_of_not_inReach hreach).symm.trans ht)
      rfl
  all_goals exact exec_keepsAllBut ht .v (by simp [written]) r

/-- How an instruction moves PC (30_encoding.md R95). -/
theorem exec_pc {i : Instr} {s t : State} (ht : exec i s = .next t) :
    t.pc = s.pc + 2 ∨ (t.pc = s.pc ∧ t.fault ≠ none) ∨
      (t.pc = s.pc + 4 ∧
        ((∃ x kk, i = .seImm x kk ∨ i = .sneImm x kk) ∨ (∃ x y, i = .seReg x y ∨ i = .sneReg x y) ∨
          ∃ x, i = .skp x ∨ i = .sknp x)) ∨
      i = .ret ∨ ∃ nnn, i = .jp nnn ∨ i = .call nnn ∨ i = .jpV0 nnn := by
  rcases exec_next ht with ⟨e, -, rfl⟩ | ⟨d, u, hd, -, rfl⟩
  · exact .inr (.inl ⟨rfl, by simp⟩)
  · rcases hd with rfl | ⟨rfl, hskip⟩ | ⟨nnn, hi, -⟩ | ⟨nnn, hi, -⟩ | ⟨hi, -⟩
    · exact .inl rfl
    · exact .inr (.inr (.inl ⟨rfl, hskip⟩))
    · exact .inr (.inr (.inr (.inr ⟨nnn, hi.imp_right .inl⟩)))
    · exact .inr (.inr (.inr (.inr ⟨nnn, .inr (.inr hi)⟩)))
    · exact .inr (.inr (.inr (.inl hi)))

/-- An instruction latches no error but one of its own (60_exceptions.md R306). -/
theorem exec_fault_changed {i : Instr} {s t : State} (ht : exec i s = .next t) (hne : t.fault ≠ s.fault) :
    ∃ e, t.fault = some e ∧ MayRaise i s e := by
  rcases exec_next ht with ⟨e, he, rfl⟩ | ⟨d, u, -, hu, rfl⟩
  · exact ⟨e, rfl, he⟩
  · exact absurd hu.fault hne

/-- CLS and DRW set display_changed and never clear it (43_display.md R232, R233). -/
theorem exec_displayChanged {i : Instr} {s t : State} (ht : exec i s = .next t)
    (hne : t.displayChanged ≠ s.displayChanged) :
    t.displayChanged = true ∧ ((i = .cls ∧ s.cfg.clsSetsDisplayChanged = true) ∨ ∃ x y n, i = .drw x y n) := by
  have hi := displayChanged_mem_written (mem_written_of_changed ht .displayChanged hne)
  refine ⟨?_, hi⟩
  rcases hi with ⟨rfl, hcfg⟩ | ⟨x, y, n, rfl⟩
  · obtain rfl := Host.Outcome.next.inj ht
    exact if_pos hcfg
  · by_cases hreach : DataInReach s n.toNat
    · obtain rfl := Host.Outcome.next.inj ((execDrw_of_inReach hreach).symm.trans ht)
      rfl
    · obtain rfl := Host.Outcome.next.inj ((execDrw_of_not_inReach hreach).symm.trans ht)
      exact absurd rfl hne

/-- Settles O53: a changed piece is a written one, and V, PC, fault and display_changed each have their own account. -/
theorem onlyNamedInstructionsWrite : Obligations.OnlyNamedInstructionsWrite := by
  intro i s t ht
  have hkeeps := exec_keepsAllBut ht
  obtain ⟨hsound, hprev, hcfg⟩ := not_mem_written (i := i) (s := s)
  refine ⟨fun r hr => ?_, exec_pc ht, exec_fault_changed ht,
    fun h => sp_mem_written (mem_written_of_changed ht .sp h),
    fun h => stack_mem_written (mem_written_of_changed ht .stack h),
    fun h => i_mem_written (mem_written_of_changed ht .i h),
    fun h => dt_mem_written (mem_written_of_changed ht .dt h),
    fun h => st_mem_written (mem_written_of_changed ht .st h),
    fun h => mem_mem_written (mem_written_of_changed ht .mem (not_forall.mpr h)),
    fun h => fb_mem_written (mem_written_of_changed ht .fb h), exec_displayChanged ht,
    hkeeps .soundActive (by simp [hsound]), hkeeps .prevKeys (by simp [hprev]), hkeeps .cfg (by simp [hcfg]),
    fun h => waitLatch_mem_written
      (h.imp (fun h => mem_written_of_changed ht .waitActive h) fun h => mem_written_of_changed ht .waitReg h),
    fun h => env_mem_written (mem_written_of_changed ht .env h)⟩
  by_contra hnot
  exact hr (exec_getV_of_not_mayWriteV ht hnot)

end Sys2Proof.Machine

/-! PROOFS of the rest of the ALU (41_alu.md): additions and logic without a flag, the shifts, VF_ORDER, and RND. -/

namespace Sys2Proof

/-- 7xkk is ADD Vx, kk (41_alu.md R152). -/
theorem decode_addImm (p : SysPolicy) (x : Nibble) (kk : Byte) : decode p (0x7#4 ++ x) kk = .instr (.addImm x kk) :=
  decode_of_table (by simp [decodeTable]) (by simp) p

/-- Cxkk is RND Vx, kk (41_alu.md R162). -/
theorem decode_rnd (p : SysPolicy) (x : Nibble) (kk : Byte) : decode p (0xC#4 ++ x) kk = .instr (.rnd x kk) :=
  decode_of_table (by simp [decodeTable]) (by simp) p

end Sys2Proof

namespace Sys2Proof.Machine

/-- Settles O6: the one write is the sum of bytes, which is taken modulo 256. -/
theorem addImmediateWrapsWithoutFlag : Obligations.AddImmediateWrapsWithoutFlag := by
  intro p x kk s
  obtain ⟨t, ht, hv, hrest⟩ := complete_setV_answers s x (s.getV x + kk)
  exact ⟨decode_addImm p x kk, t, ht, by rw [hv, BitVec.toNat_add], hrest⟩

/-- Settles O7: each of the three writes one register. -/
theorem logicOperationsLeaveVf : Obligations.LogicOperationsLeaveVf := by
  intro p x y s
  exact ⟨decode_group8 rfl (by simp) p, decode_group8 rfl (by simp) p, decode_group8 rfl (by simp) p,
    complete_setV_answers s x _, complete_setV_answers s x _, complete_setV_answers s x _⟩

/-! ## Shifts -/

theorem byte_shiftRight_one_toNat (b : Byte) : (b >>> 1).toNat = b.toNat / 2 := by
  rw [BitVec.toNat_ushiftRight, Nat.shiftRight_eq_div_pow, pow_one]

theorem byte_shiftLeft_one_toNat (b : Byte) : (b <<< 1).toNat = b.toNat * 2 % 256 := by
  rw [BitVec.toNat_shiftLeft, Nat.shiftLeft_eq, pow_one]

/-- The value a shift works on (41_alu.md R164). -/
theorem State.shiftSource_toNat (s : State) (x y : Nibble) :
    (s.shiftSource x y).toNat = if s.env.shiftReadsVy = true then (s.getV y).toNat else (s.getV x).toNat :=
  apply_ite BitVec.toNat _ _ _

/-- Settles O9: both shifts write through WriteRF a result and a bit that are numbers of the source. -/
theorem shiftsSetVf : Obligations.ShiftsSetVf := by
  intro p x y s old
  have hold : (s.shiftSource x y).toNat = old := s.shiftSource_toNat x y
  rw [← hold]
  exact ⟨decode_group8 rfl (by simp) p, decode_group8 rfl (by simp) p,
    complete_writeRF_answers s x (byte_shiftRight_one_toNat _) (by rw [shrOut_eq, decide_eq_true_iff]),
    complete_writeRF_answers s x (byte_shiftLeft_one_toNat _) (by rw [shlOut_eq, decide_eq_true_iff])⟩

/-! ## The two orders of WriteRF -/

/-- The two ends of an instruction that writes through WriteRF, under the two values of VF_ORDER, differ in registers and in
the parameter alone. -/
theorem writeRF_orders_keep (s : State) (x : Nibble) (r : Byte) (f : Bool) (d : Directive) :
    KeepsAllBut [.v, .cfg]
      (((s.withVfOrder .flagLast).writeRF x r f).setPc (applyDirective d ((s.withVfOrder .flagLast).writeRF x r f).pc))
      (((s.withVfOrder .resultLast).writeRF x r f).setPc
        (applyDirective d ((s.withVfOrder .resultLast).writeRF x r f).pc)) := by
  rw [State.writeRF_eq_setRegs (s.withVfOrder .flagLast), State.writeRF_eq_setRegs (s.withVfOrder .resultLast)]
  intro p hp
  cases p
  case v | cfg => simp at hp
  case mem => exact fun _ => rfl
  all_goals exact Eq.refl _

/-- An instruction that writes its result r, the number n, and its flag f through WriteRF, both computed from what VF_ORDER
is no part of, leaves the two ends R150 says. -/
theorem vfOrder_ends {i : Instr} {s : State} {x : Nibble} {r : Byte} {n : Nat} {f c : Bool} (hr : r.toNat = n) (hc : f = c)
    (h : ∀ o, exec i (s.withVfOrder o) = complete .advance ((s.withVfOrder o).writeRF x r f)) :
    ∃ t u : State,
      exec i (s.withVfOrder .flagLast) = .next t ∧ exec i (s.withVfOrder .resultLast) = .next u ∧
      (t.getV 15#4).toNat = c.toNat ∧
      (x ≠ 15#4 → (t.getV x).toNat = n ∧ ∀ k, u.getV k = t.getV k) ∧
      (x = 15#4 → (u.getV 15#4).toNat = n ∧ ∀ k, k ≠ 15#4 → u.getV k = t.getV k) ∧ KeepsAllBut [.v, .cfg] t u := by
  subst hr hc
  have hother (o : VfOrder) {k : Nibble} (hx : k ≠ x) (hf : k ≠ 15#4) :
      ((s.withVfOrder o).writeRF x r f).getV k = s.getV k := State.writeRF_getV_of_ne _ x r f k hx hf
  have hvf (o : VfOrder) : x = 15#4 →
      ((s.withVfOrder o).writeRF x r f).getV 15#4 = if o = .flagLast then flagByte f else r := by
    rintro rfl
    exact State.writeRF_vf _ r f
  refine ⟨_, _, (h .flagLast).trans (complete_eq _ _), (h .resultLast).trans (complete_eq _ _), ?_,
    fun hx => ⟨?_, fun k => ?_⟩, fun hx => ⟨?_, fun k hk => ?_⟩, writeRF_orders_keep s x r f .advance⟩
  · by_cases hx : x = 15#4
    · rw [State.setPc_getV, hvf _ hx, if_pos rfl, flagByte_toNat]
    · rw [State.setPc_getV, State.writeRF_flag _ _ _ _ hx, flagByte_toNat]
  · rw [State.setPc_getV, State.writeRF_result _ _ _ _ hx]
  · rw [State.setPc_getV, State.setPc_getV]
    by_cases hkx : k = x
    · rw [hkx, State.writeRF_result _ _ _ _ hx, State.writeRF_result _ _ _ _ hx]
    · by_cases hkf : k = 15#4
      · rw [hkf, State.writeRF_flag _ _ _ _ hx, State.writeRF_flag _ _ _ _ hx]
      · rw [hother _ hkx hkf, hother _ hkx hkf]
  · rw [State.setPc_getV, hvf _ hx, if_neg (by simp)]
  · have hkx : k ≠ x := hx ▸ hk
    rw [State.setPc_getV, State.setPc_getV, hother _ hkx hk, hother _ hkx hk]

/-- Settles O10: each of the five writes through WriteRF what it computes from the state before it. -/
theorem vfOrderMattersOnlyAtVf : Obligations.VfOrderMattersOnlyAtVf := by
  intro x y s i r f a b old hmem
  have hold : (s.shiftSource x y).toNat = old := s.shiftSource_toNat x y
  simp only [List.mem_cons, List.not_mem_nil, or_false, Prod.mk.injEq] at hmem
  rcases hmem with ⟨rfl, rfl, rfl⟩ | ⟨rfl, rfl, rfl⟩ | ⟨rfl, rfl, rfl⟩ | ⟨rfl, rfl, rfl⟩ | ⟨rfl, rfl, rfl⟩
  · exact vfOrder_ends (BitVec.toNat_add (s.getV x) (s.getV y)) rfl fun _ => rfl
  · exact vfOrder_ends (byte_sub_toNat (s.getV x) (s.getV y)) rfl fun _ => rfl
  · exact vfOrder_ends (byte_sub_toNat (s.getV y) (s.getV x)) rfl fun _ => rfl
  · rw [← hold]
    exact vfOrder_ends (byte_shiftRight_one_toNat _) (shrOut_eq _) fun _ => rfl
  · rw [← hold]
    exact vfOrder_ends (byte_shiftLeft_one_toNat _) (shlOut_eq _) fun _ => rfl

/-! ## RND -/

theorem byte_and_and_not (a b : Byte) : a &&& b &&& ~~~b = 0#8 := by
  simp [BitVec.and_assoc]

/-- Settles O11: the drawn byte is masked, and the source is left as one draw leaves it. -/
theorem randomByteIsMasked : Obligations.RandomByteIsMasked := by
  intro p x kk s
  refine ⟨decode_rnd p x kk, _, complete_eq _ _, ⟨s.env.nextRand, State.getV_setV_self s x _, ?_⟩, ?_, rfl,
    fun r hr => ?_,
    (((s.setV_keeps x _).trans (State.setEnv_keeps _ _)).trans (State.setPc_keepsAllBut _ _)).mono (by simp)⟩
  · exact s.env.draw_cases.imp (fun ⟨b, bs, hr, hb, hd⟩ => ⟨bs, hb ▸ hr, hd⟩) fun ⟨hr, _, hd⟩ => ⟨hr, hd⟩
  · have hv : ((s.setV x (s.env.nextRand &&& kk)).setEnv s.env.afterDraw).getV x = s.env.nextRand &&& kk :=
      State.getV_setV_self s x _
    rw [State.setPc_getV, hv, byte_and_and_not]
  · exact State.getV_setV_ne s _ (by simpa using hr)

end Sys2Proof.Machine

/-! PROOFS of the memory transfers (42_index_memory.md): ADD I, the stores and loads at I, and fetching what was stored. -/

namespace Sys2Proof.Machine

/-- Settles O13: the one write is a sum of words, which is taken modulo 2^16. -/
theorem indexAddWrapsAtSixteenBits : Obligations.IndexAddWrapsAtSixteenBits := by
  intro p x s
  exact ⟨decode_groupF rfl (by simp) p,
    complete_setI_answers s ((BitVec.toNat_add s.i (zextByte (s.getV x))).trans (by rw [zextByte_toNat]))⟩

/-! ## What stores at I leave to read -/

/-- Of n bytes stored from an address on, the k-th is read back at its cell. -/
theorem State.readByte_storeBytes_cellsFrom {s : State} (hm : s.memOk) (base : Nat) {n : Nat} {bs : List Byte}
    (hn : n ≤ 4096) (hl : bs.length = n) {k : Nat} (hk : k < bs.length) :
    (s.storeBytes (cellsFrom base n) bs).readByte ((base + k) % 4096) = bs[k] := by
  have hk' : k < (cellsFrom base n).length := by rw [cellsFrom_length]; omega
  rw [← cellsFrom_getElem base n k hk']
  exact s.storeBytes_readByte _ _ (cellsFrom_nodup base n hn) (by simp [hl]) (cellsFrom_lt base n) hm k hk'

theorem State.storeBytes_pc (s : State) (as : List Nat) (bs : List Byte) : (s.storeBytes as bs).pc = s.pc :=
  s.storeBytes_keeps as bs .pc (by simp)

/-- A decimal digit is a byte. -/
theorem byte_ofNat_toNat {n : Nat} (h : n < 256) : (BitVec.ofNat 8 n).toNat = n := by
  rw [BitVec.toNat_ofNat]
  omega

/-- I after a block transfer of x + 1 bytes, as a number (42_index_memory.md R206). -/
theorem State.indexAfter_toNat (s : State) (x : Nibble) :
    (s.indexAfter x).toNat =
      if s.env.indexIncrements = true then (s.i.toNat + (x.toNat + 1)) % 65536 else s.i.toNat := by
  unfold State.indexAfter
  split
  · have := x.isLt
    have hone : (1 : Word).toNat = 1 := rfl
    rw [BitVec.toNat_add, BitVec.toNat_add, BitVec.toNat_setWidth, hone]
    omega
  · rfl

theorem takesError_of_raise {o : Host.Outcome State Fault Refusal} {s : State} {e : MachineError} (h : o = raise e s) :
    TakesError o s e :=
  h ▸ raise_takesError e s

/-- Settles O14: the three digits are stored to three distinct cells, or the range does not resolve and nothing is. -/
theorem bcdDigitsAreStored : Obligations.BcdDigitsAreStored := by
  intro p x s v a
  refine ⟨decode_groupF rfl (by simp) p, fun hreach => ?_, fun hreach => ?_⟩
  · have hv : v < 256 := (s.getV x).isLt
    refine ⟨cellsFrom a 3, _, resolveRange_of_inReach hreach, rfl,
      (execLdBVx_of_inReach hreach).trans (complete_eq _ _), fun hm => ?_,
      fun k hk => s.storeBytes_readByte_of_not_mem _ _ k hk, ?_,
      (s.storeBytes_keeps _ _).trans (State.setPc_keepsAllBut _ _)⟩
    · have hread {k : Nat} (hk : k < (bcdDigits (s.getV x)).length) :=
        State.readByte_storeBytes_cellsFrom hm a (n := 3) (by decide) rfl hk
      refine ⟨?_, ?_, ?_⟩
      · exact (congrArg BitVec.toNat (hread (k := 0) (by simp))).trans (byte_ofNat_toNat (by omega))
      · exact (congrArg BitVec.toNat (hread (k := 1) (by simp))).trans (byte_ofNat_toNat (by omega))
      · exact (congrArg BitVec.toNat (hread (k := 2) (by simp))).trans (byte_ofNat_toNat (by omega))
    · rw [State.setPc_pc, applyDirective_advance, State.storeBytes_pc]
  · exact takesError_of_raise (execLdBVx_of_not_inReach hreach)

/-- Settles O15: x + 1 registers are stored to as many distinct cells, or the range does not resolve and nothing is. -/
theorem registersAreStored : Obligations.RegistersAreStored := by
  intro p x s a n
  have hx := x.isLt
  refine ⟨decode_groupF rfl (by simp) p, fun hreach => ?_, fun hreach => ?_⟩
  · refine ⟨cellsFrom a n, _, resolveRange_of_inReach hreach, rfl,
      (execLdMemVx_of_inReach hreach).trans (complete_eq _ _), fun hm r hr => ?_,
      fun k hk => s.storeBytes_readByte_of_not_mem _ _ k hk, s.indexAfter_toNat x, ?_,
      ((s.storeBytes_keeps _ _).trans (State.setI_keeps _ _)).trans (State.setPc_keepsAllBut _ _)⟩
    · have hk : r.toNat < (s.regsUpTo x).length := by rw [State.regsUpTo_length]; omega
      exact (State.readByte_storeBytes_cellsFrom hm a (by omega) (s.regsUpTo_length x) hk).trans
        (s.regsUpTo_getElem x r.toNat hk r.isLt)
    · rw [State.setPc_pc, applyDirective_advance, State.setI_pc, State.storeBytes_pc]
  · exact takesError_of_raise (execLdMemVx_of_not_inReach hreach)

/-- Settles O16: register k of V0..Vx takes byte k of the range, or the range does not resolve and nothing is written. -/
theorem registersAreLoaded : Obligations.RegistersAreLoaded := by
  intro p x s a n
  refine ⟨decode_groupF rfl (by simp) p, fun hreach => ?_, fun hreach => ?_⟩
  · have hlen : (s.loadBytes (cellsFrom a n)).length = n := by rw [loadBytes_length, cellsFrom_length]
    refine ⟨_, (execLdVxMem_of_inReach hreach).trans (complete_eq _ _), fun r hr => ?_, fun r hr => ?_,
      s.indexAfter_toNat x, rfl,
      ((s.setRegs_keeps _).trans (State.setI_keeps _ _)).trans (State.setPc_keepsAllBut _ _)⟩
    · have hin : 0 ≤ r.toNat ∧ r.toNat - 0 < (s.loadBytes (cellsFrom a n)).length := by omega
      refine ((writeRegs_getElem _ 0 s.v r.toNat r.isLt).trans (dif_pos hin)).trans ?_
      rw [loadBytes_getElem _ _ _ _ (by rw [cellsFrom_length]; omega), cellsFrom_getElem]
      rfl
    · have hout : ¬ (0 ≤ r.toNat ∧ r.toNat - 0 < (s.loadBytes (cellsFrom a n)).length) := by omega
      exact (writeRegs_getElem _ 0 s.v r.toNat r.isLt).trans (dif_neg hout)
  · exact takesError_of_raise (execLdVxMem_of_not_inReach hreach)

/-! ## Fetching what was stored -/

/-- A fetch after n bytes b 0, b 1, ... were stored from I on, at any PC in range (20_memory.md R64). -/
theorem State.fetch_of_storeBytes {s t : State} (hm : s.memOk) {n : Nat} {b : Nat → Byte} {bs : List Byte}
    (hn : n ≤ 4096) (hl : bs.length = n) (hb : ∀ k (h : k < bs.length), bs[k] = b k) {p : Word} (hp : p.toNat ≤ 0xFFE)
    (ht : ∀ a, t.readByte a = (s.storeBytes (cellsFrom s.i.toNat n) bs).readByte a) :
    (t.setPc p).fetch = (s.byteAfterStore n b p.toNat, s.byteAfterStore n b (p.toNat + 1)) :=
  Prod.ext ((ht p.toNat).trans (s.storeBytes_readByte_cells n b bs hm hn hl hb _ (by omega)))
    ((ht (p.toNat + 1)).trans (s.storeBytes_readByte_cells n b bs hm hn hl hb _ (by omega)))

/-- Settles O17: both instructions store a list of bytes from I on, and a fetch reads every cell as the store left it. -/
theorem storedCodeIsFetched : Obligations.StoredCodeIsFetched := by
  intro x p s hm hp reg v digit
  have hx := x.isLt
  refine ⟨fun hreach => ⟨_, (execLdMemVx_of_inReach hreach).trans (complete_eq _ _), ?_⟩,
    fun hreach => ⟨_, (execLdBVx_of_inReach hreach).trans (complete_eq _ _), ?_⟩⟩
  · refine State.fetch_of_storeBytes hm (by omega) (s.regsUpTo_length x) (fun k hk => ?_) hp fun _ => rfl
    have hk16 : k < 16 := by
      rw [State.regsUpTo_length] at hk
      omega
    rw [s.regsUpTo_getElem x k hk hk16]
    simp [reg, State.getV, Nat.mod_eq_of_lt hk16]
  · refine State.fetch_of_storeBytes hm (by decide) (bcdDigits_length (s.getV x)) (fun k hk => ?_) hp fun _ => rfl
    rw [bcdDigits_length] at hk
    interval_cases k <;> rfl

end Sys2Proof.Machine

/-! PROOFS of the rest of control flow (40_control_flow.md): JP V0, the key skips, and CALL and RET. -/

namespace Sys2Proof

/-- Bnnn is JP V0, nnn (40_control_flow.md R114). -/
theorem decode_jpV0 (p : SysPolicy) (nnn : Addr) :
    decode p (0xB#4 ++ nnn.extractLsb' 8 4) (nnn.extractLsb' 0 8) = .instr (.jpV0 nnn) :=
  decode_of_table (by simp [decodeTable]) (by simp) p

/-- 2nnn is CALL nnn (40_control_flow.md R113). -/
theorem decode_call (p : SysPolicy) (nnn : Addr) :
    decode p (0x2#4 ++ nnn.extractLsb' 8 4) (nnn.extractLsb' 0 8) = .instr (.call nnn) :=
  decode_of_table (by simp [decodeTable]) (by simp) p

/-- Exkk is the instruction group E has for kk (30_encoding.md R88). -/
theorem decode_groupE {x : Nibble} {kk : Byte} {i : Instr} (h : decodeGroupE x kk = some i) (hs : ∀ nnn, i ≠ .sys nnn)
    (p : SysPolicy) : decode p (0xE#4 ++ x) kk = .instr i :=
  decode_of_table (by simp [decodeTable, h]) hs p

end Sys2Proof

namespace Sys2Proof.Machine

/-- The target of JP V0 is the sum of its two numbers: 0xFFF + 0xFF needs no 17th bit. -/
theorem jpV0_target_toNat (nnn : Addr) (b : Byte) : (zextAddr nnn + zextByte b).toNat = nnn.toNat + b.toNat := by
  have := nnn.isLt
  have := b.isLt
  rw [BitVec.toNat_add, zextAddr_toNat, zextByte_toNat]
  omega

/-- Settles O19: the one jump to a sum. -/
theorem jumpFromV0IsNotMasked : Obligations.JumpFromV0IsNotMasked := by
  intro p nnn s
  refine ⟨decode_jpV0 p nnn, ?_⟩
  obtain ⟨t, ht, hpc, hkeeps⟩ := complete_jumpTo_answers (zextAddr nnn + zextByte (s.getV 0#4)) s
  exact ⟨t, ht, by rw [hpc, jpV0_target_toNat], hkeeps⟩

/-! ## The key skips -/

/-- With a key index in range, SKP and SKNP test that key, modulo 16 (40_control_flow.md R119 to R121). -/
theorem keySkips_answer {x : Nibble} {s : State} (h : s.cfg.keyIndex = .mod16 ∨ (s.getV x).toNat ≤ 15) :
    Answers (exec (.skp x) s) (SkipsIf s (s.env.keys.getLsbD ((s.getV x).toNat % 16) = true)) ∧
      Answers (exec (.sknp x) s) (SkipsIf s (s.env.keys.getLsbD ((s.getV x).toNat % 16) = false)) := by
  have hskp : exec (.skp x) s = _ := (execSkp_eq x s).trans (if_pos h)
  have hsknp : exec (.sknp x) s = _ := (execSknp_eq x s).trans (if_pos h)
  rw [hskp, hsknp]
  exact ⟨complete_skipIf_answers Iff.rfl s, complete_skipIf_answers (iff_of_eq (Bool.not_eq_true' _)) s⟩

/-- With one that is not, both latch its error (40_control_flow.md R121). -/
theorem keySkips_takeError {x : Nibble} {s : State} (h : ¬ (s.cfg.keyIndex = .mod16 ∨ (s.getV x).toNat ≤ 15)) :
    TakesError (exec (.skp x) s) s (.keyIndexOutOfRange (s.getV x)) ∧
      TakesError (exec (.sknp x) s) s (.keyIndexOutOfRange (s.getV x)) :=
  ⟨takesError_of_raise ((execSkp_eq x s).trans (if_neg h)), takesError_of_raise ((execSknp_eq x s).trans (if_neg h))⟩

/-- Settles O21: a value up to 15 is its own remainder, and a larger one is out of range under fault. -/
theorem keySkipsTestTheKeysInput : Obligations.KeySkipsTestTheKeysInput := by
  intro p x s v
  refine ⟨decode_groupE rfl (by simp) p, decode_groupE rfl (by simp) p, fun hv => ?_, fun hv hpolicy => ?_⟩
  · have hmod : (s.getV x).toNat % 16 = v := Nat.mod_eq_of_lt (by omega)
    have h := keySkips_answer (.inr hv)
    rwa [hmod] at h
  · refine keySkips_takeError (not_or.mpr ⟨?_, by omega⟩)
    rw [hpolicy]
    simp

/-- Settles O22: under mod16 every value is in range. -/
theorem keyIndexWrapsUnderMod16 : Obligations.KeyIndexWrapsUnderMod16 :=
  fun _ _ h => keySkips_answer (.inl h)

/-! ## CALL and RET -/

/-- With room on the stack CALL pushes, counts and jumps (40_control_flow.md R113). -/
theorem exec_call_answers (nnn : Addr) {s : State} (h : s.sp.toNat < 16) :
    Answers (exec (.call nnn) s) fun t =>
      t.stackAt s.sp.toNat = some (s.pc + 2) ∧ (∀ k, k ≠ s.sp.toNat → t.stackAt k = s.stackAt k) ∧
      t.sp.toNat = s.sp.toNat + 1 ∧ t.pc = zextAddr nnn ∧ KeepsAllBut [.stack, .sp, .pc] s t := by
  rcases execCall_cases nnn s with ⟨h16, -⟩ | ⟨-, he⟩ | ⟨h17, -⟩
  · omega
  · refine ⟨_, he, ?_, fun k hk => ?_, ?_, rfl, (s.pushReturn_keeps _).trans (State.setPc_keepsAllBut _ _)⟩
    · exact Vector.getElem?_setIfInBounds_self_of_lt h
    · exact Vector.getElem?_setIfInBounds_ne hk.symm
    · have hone : (1 : Byte).toNat = 1 := rfl
      rw [State.setPc_sp, State.pushReturn_sp, BitVec.toNat_add, hone]
      omega
  · omega

/-- With an entry on the stack RET counts down and jumps to it (40_control_flow.md R110). -/
theorem exec_ret_answers {s : State} (h1 : 1 ≤ s.sp.toNat) (h16 : s.sp.toNat ≤ 16) :
    Answers (exec .ret s) fun t =>
      t.sp.toNat = s.sp.toNat - 1 ∧ s.stackAt (s.sp.toNat - 1) = some t.pc ∧ KeepsAllBut [.sp, .pc] s t := by
  have hsp : (s.sp - 1).toNat = s.sp.toNat - 1 := by bv_omega
  rcases execRet_cases s with ⟨h0, -⟩ | ⟨-, hl, he⟩ | ⟨h17, -⟩
  · simp [h0] at h1
  · refine ⟨_, he, hsp, ?_, (s.setSp_keeps _).trans (State.setPc_keepsAllBut _ _)⟩
    rw [← hsp, State.stackAt_of_lt s hl]
    rfl
  · omega

/-- Settles O23: room, or a full stack. -/
theorem callPushesTheReturnAddress : Obligations.CallPushesTheReturnAddress := by
  intro p nnn s
  refine ⟨decode_call p nnn, fun h => ?_, fun h => ?_⟩
  · obtain ⟨t, ht, hpushed, hkept, hsp, hpc, hkeeps⟩ := exec_call_answers nnn h
    exact ⟨t, ht, hpushed, hkept, hsp, by rw [hpc, zextAddr_toNat], hkeeps⟩
  · rcases execCall_cases nnn s with ⟨-, he⟩ | ⟨hlt, -⟩ | ⟨h17, -⟩
    · exact takesError_of_raise he
    · omega
    · omega

/-- Settles O24: an entry to return to, or an empty stack. -/
theorem returnPopsTheStack : Obligations.ReturnPopsTheStack := by
  intro p s
  refine ⟨decode_of_table (by decide) (by simp) p, exec_ret_answers, fun h => ?_⟩
  rcases execRet_cases s with ⟨-, he⟩ | ⟨h0, -⟩ | ⟨h17, -⟩
  · exact takesError_of_raise he
  · exact absurd (BitVec.eq_of_toNat_eq h) h0
  · omega

/-- Settles O25: above 16 neither has a next state. -/
theorem illegalStackPointerStops : Obligations.IllegalStackPointerStops :=
  fun nnn _ h => ⟨exec_of_illegal_sp h (.inr ⟨nnn, rfl⟩), exec_of_illegal_sp h (.inl rfl)⟩

/-! ## Nested calls -/

theorem runInstrs_cons {i : Instr} {is : List Instr} {s t : State} (h : exec i s = .next t) :
    runInstrs (i :: is) s = runInstrs is t := by
  rw [runInstrs, h]

theorem runInstrs_append {is js : List Instr} {s t : State} (h : runInstrs is s = .next t) :
    runInstrs (is ++ js) s = runInstrs js t := by
  induction is generalizing s with
  | nil => rw [Host.Outcome.next.inj h, List.nil_append]
  | cons i is ih =>
    rw [runInstrs] at h
    split at h
    · next u hu => exact (runInstrs_cons hu).trans (ih h)
    · cases h
    · cases h

/-- The return addresses that nested calls push, from a CALL at pc: behind it, then behind each CALL at the target before. -/
def returnAddresses (pc : Word) : List Addr → List Word
  | [] => []
  | nnn :: targets => (pc + 2) :: returnAddresses (zextAddr nnn) targets

@[simp] theorem returnAddresses_length (pc : Word) (targets : List Addr) :
    (returnAddresses pc targets).length = targets.length := by
  induction targets generalizing pc with
  | nil => rfl
  | cons nnn targets ih => simp [returnAddresses, ih]

/-- All but the first lie behind a CALL at the target of the one before. -/
theorem returnAddresses_getElem_succ (pc : Word) (targets : List Addr) (j : Nat) (h : j + 1 < targets.length) :
    (returnAddresses pc targets)[j + 1]'(by simpa using h) = zextAddr targets[j] + 2 := by
  induction targets generalizing pc j with
  | nil => simp at h
  | cons nnn targets ih =>
    cases targets with
    | nil => simp at h
    | cons nnn' targets =>
      cases j with
      | zero => rfl
      | succ j => exact ih (zextAddr nnn) j (by simpa using h)

theorem returnAddresses_getElem_zero (pc : Word) (targets : List Addr) (h : 0 < targets.length) :
    (returnAddresses pc targets)[0]'(by simpa using h) = pc + 2 := by
  cases targets with
  | nil => simp at h
  | cons => rfl

/-- Nested calls push their return addresses, one above the other. -/
theorem runInstrs_calls (targets : List Addr) {s : State} (h : s.sp.toNat + targets.length ≤ 16) :
    Answers (runInstrs (targets.map Instr.call) s) fun t =>
      t.sp.toNat = s.sp.toNat + targets.length ∧ (∀ k, k < s.sp.toNat → t.stackAt k = s.stackAt k) ∧
      (∀ j (hj : j < (returnAddresses s.pc targets).length),
        t.stackAt (s.sp.toNat + j) = some (returnAddresses s.pc targets)[j]) ∧
      KeepsAllBut [.stack, .sp, .pc] s t := by
  induction targets generalizing s with
  | nil => exact ⟨s, rfl, rfl, fun _ _ => rfl, by simp [returnAddresses], KeepsAllBut.refl _ s⟩
  | cons nnn targets ih =>
    rw [List.length_cons] at h
    obtain ⟨u, hu, hpushed, hkept, husp, hupc, hukeeps⟩ := exec_call_answers nnn (s := s) (by omega)
    obtain ⟨t, ht, htsp, hbelow, hframes, htkeeps⟩ := ih (s := u) (by omega)
    refine ⟨t, (runInstrs_cons hu).trans ht, by rw [htsp, husp, List.length_cons]; omega, fun k hk => ?_, fun j hj => ?_,
      (hukeeps.trans htkeeps).mono (by simp)⟩
    · rw [hbelow k (by omega), hkept k (by omega)]
    · cases j with
      | zero =>
        rw [Nat.add_zero, hbelow _ (by omega), hpushed]
        rfl
      | succ j =>
        have hj' : j < (returnAddresses u.pc targets).length := by simpa using hj
        have hframe := hframes j hj'
        rw [husp] at hframe
        simp only [hupc] at hframe
        rw [← Nat.add_assoc, Nat.add_right_comm]
        exact hframe

/-- After k returns SP is down by k and PC is the entry it then names. -/
theorem runInstrs_rets (k : Nat) {s : State} (hk : k + 1 ≤ s.sp.toNat) (h16 : s.sp.toNat ≤ 16) :
    Answers (runInstrs (List.replicate (k + 1) Instr.ret) s) fun t =>
      t.sp.toNat = s.sp.toNat - (k + 1) ∧ s.stackAt (s.sp.toNat - (k + 1)) = some t.pc ∧
      KeepsAllBut [.sp, .pc] s t := by
  induction k generalizing s with
  | zero =>
    obtain ⟨t, ht, hrest⟩ := exec_ret_answers (s := s) (by omega) h16
    exact ⟨t, runInstrs_cons ht, hrest⟩
  | succ k ih =>
    obtain ⟨u, hu, husp, -, hukeeps⟩ := exec_ret_answers (s := s) (by omega) h16
    obtain ⟨t, ht, htsp, htpc, htkeeps⟩ := ih (s := u) (by omega) (by omega)
    have hstack : u.stack = s.stack := hukeeps .stack (by simp)
    refine ⟨t, (runInstrs_cons hu).trans ht, by omega, ?_, (hukeeps.trans htkeeps).mono (by simp)⟩
    rw [State.stackAt, hstack, husp] at htpc
    rw [State.stackAt, ← htpc]
    congr 1
    omega

/-- Settles O26: the k-th RET reads the entry that the CALL it matches pushed. -/
theorem nestedCallsUnwindInOrder : Obligations.NestedCallsUnwindInOrder := by
  intro targets k s hroom hk1 hkn
  obtain ⟨k, rfl⟩ := Nat.exists_eq_add_of_le' hk1
  obtain ⟨u, hu, husp, -, hframes, hukeeps⟩ := runInstrs_calls targets hroom
  obtain ⟨t, ht, htsp, htpc, htkeeps⟩ := runInstrs_rets k (s := u) (by omega) (by omega)
  have hj : targets.length - (k + 1) < (returnAddresses s.pc targets).length := by rw [returnAddresses_length]; omega
  have hpc : t.pc = (returnAddresses s.pc targets)[targets.length - (k + 1)] := by
    have hframe := hframes _ hj
    rw [show s.sp.toNat + (targets.length - (k + 1)) = u.sp.toNat - (k + 1) by omega, htpc] at hframe
    exact Option.some.inj hframe
  refine ⟨t, (runInstrs_append hu).trans ht, by omega, fun hall => ?_, fun hlt hopen => ?_,
    (hukeeps.trans htkeeps).mono (by simp)⟩
  · simp only [hall, Nat.sub_self] at hpc
    rw [hpc, returnAddresses_getElem_zero]
    omega
  · have hlast : targets.length - (k + 1) = (targets.length - (k + 1) - 1) + 1 := by omega
    have hentry := returnAddresses_getElem_succ s.pc targets (targets.length - (k + 1) - 1) (by omega)
    simp only [← hlast] at hentry
    have htarget := (targets[targets.length - (k + 1) - 1]).isLt
    have htwo : (2 : Word).toNat = 2 := rfl
    rw [hpc, hentry, BitVec.toNat_add, zextAddr_toNat, htwo]
    omega

end Sys2Proof.Machine

/-! PROOFS of the rest of the display, the timers and the key wait (43_display.md, 44_timers_keypad.md). -/

namespace Sys2Proof.Machine

/-! ## The display -/

/-- Settles O29: every byte of the written framebuffer is 0, and the flag is written as the parameter says. -/
theorem clearScreenClearsEveryPixel : Obligations.ClearScreenClearsEveryPixel := by
  intro p s
  exact ⟨decode_of_table (by decide) (by simp) p, _, complete_eq _ _, fun k hk => Vector.getElem_replicate hk,
    fun h => if_pos h, fun h => if_neg (Bool.eq_false_iff.mp h), rfl,
    ((s.setFb_keeps _).trans (State.setDisplayChanged_keeps _ _)).trans (State.setPc_keepsAllBut _ _)⟩

/-- A blit of distinct pixels, done twice, changes nothing. -/
theorem blit_blit (ps : List (Fin 64 × Fin 32)) (hd : ps.Nodup) (fb : Framebuffer) :
    (blit ps (blit ps fb false).1 false).1 = fb := by
  refine pix_ext fun px py => ?_
  rw [pix_blit _ _ _ hd, pix_blit _ _ _ hd, Bool.xor_assoc, Bool.xor_self, Bool.xor_false]

theorem flagByte_eq_one_iff {f : Bool} : flagByte f = 0x01#8 ↔ f = true := by
  cases f <;> decide

/-- Settles O31: the second draw inverts the same pixels, and finds a covered one set exactly if the first found it clear. -/
theorem drawTwiceRestoresTheScreen : Obligations.DrawTwiceRestoresTheScreen := by
  intro x y n s t u hreach ht hfb hx hy hi hcfg hmem
  have hfirst : t.fb = (blit (s.drawnPixels x y n) s.fb false).1 := by
    obtain rfl := Host.Outcome.next.inj ((execDrw_of_inReach hreach).symm.trans ht)
    rfl
  have hpixels : u.drawnPixels x y n = s.drawnPixels x y n := by
    have hload : u.loadBytes (cellsFrom s.i.toNat n.toNat) = s.loadBytes (cellsFrom s.i.toNat n.toNat) :=
      List.map_congr_left fun a _ => hmem a
    rw [State.drawnPixels, State.drawnPixels, hx, hy, hi, hload]
  have hreach' : DataInReach u n.toNat := by
    unfold DataInReach
    rwa [hcfg, hi]
  refine ⟨_, (execDrw_of_inReach hreach').trans (complete_eq _ _), ?_, ?_⟩
  · show (blit (u.drawnPixels x y n) u.fb false).1 = s.fb
    rw [hpixels, hfb, hfirst]
    exact blit_blit _ (s.drawnPixels_nodup x y n) s.fb
  · have hv : ((((u.setFb (blit (u.drawnPixels x y n) u.fb false).1).setV 15#4
        (flagByte (blit (u.drawnPixels x y n) u.fb false).2)).setDisplayChanged true)).getV 15#4 =
        flagByte (blit (u.drawnPixels x y n) u.fb false).2 := State.getV_setV_self _ _ _
    rw [State.setPc_getV, hv, flagByte_eq_one_iff, hpixels, hfb, hfirst, blit_hit _ _ _ (s.drawnPixels_nodup x y n)]
    simp only [Bool.false_eq_true, false_or, Prod.exists, State.mem_drawnPixels]
    refine exists_congr fun px => exists_congr fun py => and_congr_right fun hc => ?_
    rw [State.pix_blit_of_covered hc, Bool.not_eq_true']

/-! ## The timers and the key wait -/

/-- Settles O33: the one write is that of ST. -/
theorem soundTimerIsSetSilently : Obligations.SoundTimerIsSetSilently := by
  intro p x s
  exact ⟨decode_groupF rfl (by simp) p, _, complete_eq _ _, rfl, rfl, rfl,
    (s.setSt_keeps _).trans (State.setPc_keepsAllBut _ _)⟩

/-- Settles O34: the two writes are those of the latch. -/
theorem keyWaitArmsTheLatch : Obligations.KeyWaitArmsTheLatch := by
  intro p x s
  exact ⟨decode_groupF rfl (by simp) p, _, complete_eq _ _, rfl, rfl, rfl,
    ((s.setWaitActive_keeps _).trans (State.setWaitReg_keeps _ _)).trans (State.setPc_keepsAllBut _ _)⟩

/-- Under hold a pending wait stalls the TICK (44_timers_keypad.md R265). -/
theorem tick_of_hold {s : State} (hhold : s.cfg.keyWait = .hold) (hw : s.waitActive = true) : tick s = .next s := by
  have hstall : s.stalled = true := by simp [State.stalled, hhold, hw]
  unfold tick
  rw [hstall, if_pos rfl, ite_self]

/-- What FRAME leaves of a state with no error latched. -/
theorem frameStep_running {s : State} (hf : s.fault = none) :
    (frameStep s).fault = none ∧ (frameStep s).dt.toNat = s.dt.toNat - 1 ∧ (frameStep s).st.toNat = s.st.toNat - 1 ∧
      (frameStep s).soundActive = decide (1 < s.st.toNat) ∧ (frameStep s).waitActive = s.waitActive := by
  rw [frameStep_of_running hf]
  exact ⟨hf, countDown_toNat _, countDown_toNat _, rfl, rfl⟩

/-- Settles O35: the wait holds the TICK until KEY_EDGE clears it, and FRAME leaves it pending. -/
theorem holdStallsTheTick : Obligations.HoldStallsTheTick := by
  intro s edge hf hhold hw
  obtain ⟨-, hdt, hst, -, hwait⟩ := frameStep_running hf
  refine ⟨tick_of_hold hhold hw, fun hedge => ?_, hdt, hst,
    tick_of_hold ((congrArg Config.keyWait (frameStep_spares .cls s).cfg).trans hhold) (hwait.trans hw)⟩
  obtain ⟨k, hk⟩ := Option.ne_none_iff_exists'.mp (mt lowestKey_eq_none.mp hedge)
  rw [keyEdge_of_waiting hf hw hk]
  exact ⟨rfl, rfl, fun hp => tick_of_pc_in_range hf (.inr rfl) hp⟩

/-- After n frames with no error latched the timers are down by n. -/
theorem frameStep_iterate {s : State} (hf : s.fault = none) (n : Nat) :
    (frameStep^[n] s).fault = none ∧ (frameStep^[n] s).dt.toNat = s.dt.toNat - n ∧
      (frameStep^[n] s).st.toNat = s.st.toNat - n := by
  induction n with
  | zero => exact ⟨hf, rfl, rfl⟩
  | succ n ih =>
    obtain ⟨hfn, hdt, hst⟩ := ih
    obtain ⟨hf', hdt', hst', -⟩ := frameStep_running hfn
    rw [Function.iterate_succ_apply']
    exact ⟨hf', by omega, by omega⟩

/-- Settles O37: sound_active is what the last frame computes from the ST before it. -/
theorem soundLastsOneFrameLess : Obligations.SoundLastsOneFrameLess := by
  intro n s hf
  obtain ⟨-, hdt, hst⟩ := frameStep_iterate hf (n + 1)
  refine ⟨?_, hst, hdt⟩
  obtain ⟨hfn, -, hstn⟩ := frameStep_iterate hf n
  obtain ⟨-, -, -, hsound, -⟩ := frameStep_running hfn
  rw [Function.iterate_succ_apply', hsound]
  exact decide_eq_decide.mpr (by omega)

/-! ## The key poll -/

/-- The keys newly down since the last poll (60_exceptions.md R322). -/
theorem getLsbD_newPresses {keys prev : Word} {k : Nat} (hk : k < 16) :
    (keys &&& ~~~prev).getLsbD k = true ↔ keys.getLsbD k = true ∧ prev.getLsbD k = false := by
  simp [hk]

theorem keyPoll_of_running {keys : Word} {s : State} (hf : s.fault = none) :
    keyPoll keys s = keyEdge (keys &&& ~~~s.prevKeys) (s.setPrevKeys keys) := by
  simp [keyPoll, hf]

theorem keyEdge_keeps (edge : Word) (s : State) : KeepsAllBut [.v, .waitActive] s (keyEdge edge s) := by
  unfold keyEdge
  split
  · exact KeepsAllBut.refl _ s
  · split
    · cases lowestKey edge with
      | none => exact KeepsAllBut.refl _ s
      | some k => exact s.setV_setWaitActive_keepsAllBut _ _ _
    · exact KeepsAllBut.refl _ s

/-- Settles O39: with no error latched a poll is KEY_EDGE of the newly pressed keys once prev_keys has taken the mask. -/
theorem keyPollPassesNewPresses : Obligations.KeyPollPassesNewPresses := by
  refine fun keys s => ⟨fun hf => ?_, fun hf => ?_⟩
  · exact congrArg Host.Outcome.next (if_pos (Option.isSome_iff_ne_none.mpr hf))
  · have hkeeps := keyEdge_keeps (keys &&& ~~~s.prevKeys) (s.setPrevKeys keys)
    refine ⟨_, congrArg Host.Outcome.next (keyPoll_of_running hf), hkeeps .prevKeys (by simp),
      ((s.setPrevKeys_keeps keys).trans hkeeps).mono (by simp), ?_, ?_⟩
    · rintro ⟨hw, k, hk16, hdown, hup⟩
      have hne : keys &&& ~~~s.prevKeys ≠ 0#16 := fun h => by
        simpa [h] using (getLsbD_newPresses hk16).mpr ⟨hdown, hup⟩
      obtain ⟨j, hj⟩ := Option.ne_none_iff_exists'.mp (mt lowestKey_eq_none.mp hne)
      obtain ⟨hj16, hset, hlow⟩ := lowestKey_eq_some.mp hj
      obtain ⟨hjdown, hjup⟩ := (getLsbD_newPresses hj16).mp hset
      obtain ⟨t, ht, hv, hwait, hregs, -⟩ := keyEdge_answers (s := s.setPrevKeys keys) hf hw hj
      obtain rfl := Host.Outcome.next.inj ht
      refine ⟨j, hj16, hjdown, hjup, fun l hl hldown => ?_, hv, hwait, hregs⟩
      by_contra hlup
      have hnew := (getLsbD_newPresses (by omega)).mpr ⟨hldown, Bool.eq_false_iff.mpr hlup⟩
      simp [hlow l hl] at hnew
    · intro hno
      have hsame : keyEdge (keys &&& ~~~s.prevKeys) (s.setPrevKeys keys) = s.setPrevKeys keys := by
        rcases hno with hw | hold
        · exact keyEdge_of_idle hw
        · have hzero : keys &&& ~~~s.prevKeys = 0#16 := by
            refine BitVec.eq_of_getLsbD_eq fun k hk => ?_
            rw [BitVec.getLsbD_zero, ← Bool.not_eq_true, getLsbD_newPresses hk, not_and, Bool.not_eq_false]
            exact hold k hk
          rw [hzero, keyEdge_zero]
      rw [hsame]
      exact ⟨rfl, fun _ _ => rfl⟩

/-- Settles O58: a drive writes the host's side alone. -/
theorem driveSetsTheQuirkInputs : Obligations.DriveSetsTheQuirkInputs :=
  fun _ _ s => ⟨_, rfl, rfl, s.setEnv_keeps _⟩

end Sys2Proof.Machine

/-! PROOFS of RESET, LOAD and the faulted block (70_reset_and_hazards.md, 60_exceptions.md R312, R313). -/

namespace Sys2Proof.Machine

/-- After RESET every byte reads as the reset contents: FONT, and 0 behind it (70_reset_and_hazards.md R350). -/
theorem resetBlock_readByte (s : State) (a : Nat) : (resetBlock s).readByte a = s.cfg.font[a]?.getD 0x00 := rfl

theorem resetBlock_getV (s : State) (r : Nibble) : (resetBlock s).getV r = 0x00#8 := Vector.getElem_replicate r.isLt

theorem resetBlock_stackAt (s : State) {k : Nat} (hk : k < 16) : (resetBlock s).stackAt k = some 0x0000#16 :=
  ((resetBlock s).stackAt_of_lt hk).trans (congrArg some (Vector.getElem_replicate hk))

/-- Settles O40: every piece of RESET's end is a literal, a read of it, or kept. -/
theorem resetRestoresEveryPiece : Obligations.ResetRestoresEveryPiece := by
  intro s
  refine ⟨_, rfl, resetBlock_getV s, rfl, rfl, fun k => resetBlock_stackAt s, rfl, rfl, rfl, fun a ha => ?_,
    fun a ha => ?_, resetBlock_memOk s, fun k hk => Vector.getElem_replicate hk, rfl, rfl, rfl, rfl, rfl, rfl, rfl, rfl⟩
  · rw [resetBlock_readByte, Vector.getElem?_eq_getElem ha, Option.getD_some]
  · rw [resetBlock_readByte, Vector.getElem?_eq_none ha, Option.getD_none]
    rfl

theorem opResult_load (p : List Byte) (t : State) :
    opResult (.load p) t = if 3584 < p.length then some .memoryOverflow else none := rfl

theorem loadImage_of_fits {p : List Byte} (h : p.length ≤ 3584) (s : State) :
    loadImage p s = (resetBlock s).storeImage 0x200 p :=
  if_neg (Nat.not_lt.mpr h)

theorem loadImage_of_fails {p : List Byte} (h : 3584 < p.length) {s : State}
    (hf : s.fault = none ∨ s.cfg.failedLoad = .replacesError) : loadImage p s = s.setFault (some .memoryOverflow) := by
  rcases loadImage_cases p s with ⟨hl, -⟩ | ⟨-, -, h⟩ | ⟨-, hs, hc, -⟩
  · omega
  · exact h
  · rcases hf with hf | hf
    · simp [hf] at hs
    · simp [hf] at hc

theorem loadImage_of_keepsError {p : List Byte} (h : 3584 < p.length) {s : State} (hf : s.fault ≠ none)
    (hc : s.cfg.failedLoad = .keepsError) : loadImage p s = s := by
  rcases loadImage_cases p s with ⟨hl, -⟩ | ⟨-, hs, -⟩ | ⟨-, -, -, h⟩
  · omega
  · rcases hs with hs | hs
    · exact absurd hs hf
    · simp [hs] at hc
  · exact h

/-- Settles O41: a LOAD that fits stores its image over the reset state, and one that does not is error entry or nothing. -/
theorem loadIsAllOrNothing : Obligations.LoadIsAllOrNothing := by
  intro p s
  refine ⟨fun hl => ?_, fun hl hf => takesError_of_raise (congrArg Host.Outcome.next (loadImage_of_fails hl hf)),
    fun hl hf hc => congrArg Host.Outcome.next (loadImage_of_keepsError hl hf hc), fun hl t => ?_⟩
  · have hm := resetBlock_memOk s
    have hread (a : Nat) := (resetBlock s).storeImage_readByte 0x200 p (by omega) hm a
    have hkeeps := (resetBlock s).storeImage_keeps 0x200 p
    refine ⟨_, congrArg Host.Outcome.next (loadImage_of_fits hl s), fun k hk => ?_, fun a ha => ?_,
      hkeeps .fault (by simp), State.storeImage_memOk _ _ _ (by omega) hm, hkeeps, ?_⟩
    · rw [hread, dif_pos ⟨by omega, by omega⟩]
      simp
    · rw [hread, dif_neg (by omega)]
    · rw [opResult_load, if_neg (by omega)]
  · rw [opResult_load, if_pos hl]

/-! ## The faulted block -/

theorem tick_of_fault {s : State} (h : s.fault.isSome) : tick s = .next s := if_pos h

/-- What each operation leaves in the latch of a faulted block: RESET and a LOAD that fits clear it, a LOAD that does not fit
replaces it where failedLoad says so, and nothing else touches it (60_exceptions.md R312, R313; log 17). -/
theorem runOp_fault_of_faulted {op : HostOp} {s t : State} {e : MachineError} (hf : s.fault = some e)
    (ht : runOp op s = .next t) :
    (t.fault = none ∧ (op = .reset ∨ ∃ p : List Byte, op = .load p ∧ p.length ≤ 3584)) ∨
      ((t.fault = some e ∨ s.cfg.failedLoad = .replacesError ∧ t.fault = some .memoryOverflow ∧
          ∃ p : List Byte, op = .load p ∧ 3584 < p.length) ∧
        ¬ (op = .reset ∨ ∃ p : List Byte, op = .load p ∧ p.length ≤ 3584)) := by
  have hs : s.fault.isSome := by simp [hf]
  cases op with
  | tick keys =>
    obtain rfl := Host.Outcome.next.inj ((tick_of_fault (s := s.withKeys keys) hs).symm.trans ht)
    exact .inr ⟨.inl hf, by simp⟩
  | frame =>
    obtain rfl := Host.Outcome.next.inj ht
    exact .inr ⟨.inl ((frameStep_spares .cls s).fault.trans hf), by simp⟩
  | keyEdge edge =>
    obtain rfl := Host.Outcome.next.inj ht
    exact .inr ⟨.inl ((keyEdge_spares .cls edge s).fault.trans hf), by simp⟩
  | keyPoll keys =>
    obtain rfl := Host.Outcome.next.inj ht
    exact .inr ⟨.inl ((keyPoll_spares .cls keys s).fault.trans hf), by simp⟩
  | load p =>
    obtain rfl := Host.Outcome.next.inj ht
    rcases loadImage_cases p s with ⟨hl, h⟩ | ⟨hl, hc, h⟩ | ⟨hl, -, -, h⟩ <;> rw [h]
    · exact .inl ⟨(resetBlock s).storeImage_keeps 0x200 p .fault (by simp), .inr ⟨p, rfl, hl⟩⟩
    · exact .inr ⟨.inr ⟨hc.resolve_left (by simp [hf]), rfl, p, rfl, hl⟩, by simp [hl]⟩
    · exact .inr ⟨.inl hf, by simp [hl]⟩
  | reset =>
    obtain rfl := Host.Outcome.next.inj ht
    exact .inl ⟨rfl, .inl rfl⟩
  | drive a b =>
    obtain rfl := Host.Outcome.next.inj ht
    exact .inr ⟨.inl hf, by simp⟩

/-- Settles O43: each operation's own check of the latch, and the account of what each leaves in it. -/
theorem faultedBlockIsTerminal : Obligations.FaultedBlockIsTerminal := by
  intro s e hf
  have hs : s.fault.isSome := by simp [hf]
  have hne : s.fault ≠ none := Option.isSome_iff_ne_none.mp hs
  refine ⟨tick_of_fault hs, fun _ => hf, congrArg Host.Outcome.next (frameStep_of_fault hs),
    fun m => ⟨congrArg Host.Outcome.next (keyEdge_of_fault hs), congrArg Host.Outcome.next (if_pos hs)⟩,
    fun p hl hc => congrArg Host.Outcome.next (loadImage_of_keepsError hl hne hc), fun op t ht => ?_, fun op t ht => ?_⟩
  · rcases runOp_fault_of_faulted hf ht with ⟨h, -⟩ | ⟨h, -⟩
    · exact .inl h
    · exact .inr h
  · rcases runOp_fault_of_faulted hf ht with ⟨h, hop⟩ | ⟨h, hop⟩
    · exact iff_of_true h hop
    · refine iff_of_false (fun hnone => ?_) hop
      rcases h with h | ⟨-, h, -⟩ <;> simp [hnone] at h

end Sys2Proof.Machine
